-- ==== Sys2Proof/Word.lean ====
section
/-! DEFINITION. The words of QDEC-G5. One bit and a combined state are bit vectors of their fixed widths. A timestamp,
an event word (`EW = TS_W + 8` bits) and an output word (`OW = TS_W + 24` bits) have widths that depend on the parameter
`TS_W` of the build (00_scope.md R6, 30_encoding.md R70, R77; decision D3), so they are natural numbers (`Nat`), as the
spec itself writes a timestamp: "a natural `t` with `0 <= t < 2^TS_W`" (00_scope.md R8). The bound is a check of
WellFormed.lean, is established by the decoder, and is an invariant of the registers (assumption 1). -/

namespace Sys2Proof

/-- One bit: a pin level, a one-bit port (00_scope.md R8). -/
abbrev Bit := BitVec 1

/-- A combined state, one of 0 to 3 (40_quadrature_decoder.md R100). -/
abbrev Combined := BitVec 2

end Sys2Proof
end

