-- ==== Sys2Proof/Config.lean ====
section
/-! DEFINITION. The implementation parameters of QDEC-G5 (00_scope.md R6, R7; 10_state.md R31): the constants the
spec fixes, the record `Cfg` of the parameters it leaves to the build, and the one parameter it gives no value
(`SPEED_THRESHOLD`), a constant without a body. Also the gate and stream names the parameters are indexed by. -/

namespace Sys2Proof

/-- The three debounce gates, `MENU = 0, POT = 1, BTN = 2` (10_state.md R25, 41_debounce_speed.md R130). -/
inductive Gate where
  | menu | pot | btn
deriving DecidableEq, Repr

/-- The two rotation streams, `MENU = 0, POT = 1` (10_state.md R28). -/
inductive Stream where
  | menu | pot
deriving DecidableEq, Repr

/-- One thing for each gate: the spec's `x[MENU], x[POT], x[BTN]` (00_scope.md R9). -/
structure PerGate (α : Type) where
  menu : α
  pot  : α
  btn  : α
deriving DecidableEq, Repr

/-- The parameters fixed when the block is built (00_scope.md R6; decision D14). `Cfg.wf` holds their constraints
(00_scope.md R7). -/
structure Cfg where
  /-- `TS_W`, the width in bits of a timestamp (decision D3). -/
  tsWidth        : Nat
  /-- `MIN_INTERVAL[g]`, in microseconds. -/
  minInterval    : PerGate Nat
  /-- `SPEED_THRESHOLD`, in detents per second. -/
  speedThreshold : Nat
deriving DecidableEq, Repr

namespace Config

/-- The value the spec takes for `TS_W` (00_scope.md R6; decision D3), that of the opcode table's words. -/
def tsWidth : Nat := 64

/-- `RATE_NUM` (00_scope.md R6). -/
def rateNum : Nat := 1000000

/-- `SPEED_MAX` (00_scope.md R6). -/
def speedMax : Nat := 1000

/-- `STEP_SLOW` (00_scope.md R6). -/
def stepSlow : BitVec 7 := 10

/-- `STEP_FAST` (00_scope.md R6). -/
def stepFast : BitVec 7 := 100

/-- `HOME`, the encoder's home combined state (00_scope.md R6). -/
def home : Combined := 0

/-- `SPEED_THRESHOLD` of the built block: "named parameter with no default" (00_scope.md R6; 91_not_in_source.md
N3: "Not assume: any value"). UNVERIFIED: no body, so no proof can see its value (assumption 2). -/
opaque speedThreshold : BitVec tsWidth

/-- The parameters of the built block: the spec's defaults for the width and the three intervals (00_scope.md R6;
assumptions 1, 3) and the open threshold. -/
def built : Cfg :=
  { tsWidth        := tsWidth
    minInterval    := { menu := 15000, pot := 10000, btn := 200000 }
    speedThreshold := speedThreshold.toNat }

end Config

end Sys2Proof
end

