-- ==== Sys2Proof/Syntax.lean ====
section
/-! DEFINITION. The events the block accepts, its instruction set (30_encoding.md R73, R74), and the lines of the
spec's assembler with their pseudo-instructions (30_encoding.md R79, R80). -/

namespace Sys2Proof

/-- The two quadrature pins (30_encoding.md R71). -/
inductive Pin where
  | a | b
deriving DecidableEq, Repr

/-- The decoded operations of 30_encoding.md R74, one constructor for each row of the opcode table.
A level is one bit and a mask a set of the three gates by their types; that a timestamp fits `TS_W` bits (R72) is
`Instr.wf`. -/
inductive Instr where
  /-- `NOP` (42_control_events.md R160). -/
  | nop
  /-- `EDGE_A level, ts` (40_quadrature_decoder.md R110). -/
  | edgeA (level : Bit) (ts : Nat)
  /-- `EDGE_B level, ts` (40_quadrature_decoder.md R111). -/
  | edgeB (level : Bit) (ts : Nat)
  /-- `BTN_EDGE level, ts` (41_debounce_speed.md R142). -/
  | btnEdge (level : Bit) (ts : Nat)
  /-- `PAGE stream, mask` (42_control_events.md R161); the mask says of each gate whether it is cleared. -/
  | page (stream : Stream) (mask : PerGate Bool)
deriving DecidableEq, Repr

/-- One line of assembler: the five events with their operands as the numbers written (30_encoding.md R79), and
the five pseudo-instructions (30_encoding.md R80). Operands may be out of range: `AsmLine.wf` (Machine/Assembler.lean) checks them. -/
inductive AsmLine where
  | nop
  | edgeA (level ts : Nat)
  | edgeB (level ts : Nat)
  | btnEdge (level ts : Nat)
  | page (stream : Stream) (mask : List Gate)
  | tick
  | select (stream : Stream)
  | stepTo (n ts : Nat)
  | detentCw (t0 dt : Nat)
  | detentCcw (t0 dt : Nat)
deriving DecidableEq, Repr

end Sys2Proof
end

