-- ==== Sys2Proof/WellFormed.lean ====
section
/-! DEFINITION. What the types leave to check: the constraints on the parameters of a build (00_scope.md R7), that a
timestamp operand fits the width `TS_W` of the build (00_scope.md R8, 30_encoding.md R72), and the ranges of the
operands of an assembler line (30_encoding.md R79). Which whole lines are legal also depends on the state the assembler
tracks: `AsmLine.wf` in Machine/Assembler.lean. -/

namespace Sys2Proof

/-- `0 <= ts < 2^TS_W` (00_scope.md R8, 30_encoding.md R79). -/
def tsInRange (tsWidth ts : Nat) : Bool := ts < 2 ^ tsWidth

/-- `level ∈ {0,1}` (30_encoding.md R79). -/
def levelInRange (level : Nat) : Bool := level < 2

/-- The constraints on the parameters: `TS_W >= 1`, and the intervals and the threshold below `2^TS_W`
(00_scope.md R7; decision D14). -/
def Cfg.wf (cfg : Cfg) : Bool :=
  1 ≤ cfg.tsWidth && tsInRange cfg.tsWidth cfg.minInterval.menu && tsInRange cfg.tsWidth cfg.minInterval.pot
    && tsInRange cfg.tsWidth cfg.minInterval.btn && tsInRange cfg.tsWidth cfg.speedThreshold

/-- The operation can be written in an event word of the build: its timestamp, if it has one, fits `TS_W` bits
(30_encoding.md R70, R72). -/
def Instr.wf (tsWidth : Nat) : Instr → Bool
  | .nop          => true
  | .edgeA _ ts   => tsInRange tsWidth ts
  | .edgeB _ ts   => tsInRange tsWidth ts
  | .btnEdge _ ts => tsInRange tsWidth ts
  | .page _ _     => true

end Sys2Proof
end

