-- ==== Sys2Proof/Decode.lean ====
section
/-! DEFINITION. Event words and operations (30_encoding.md): the fields of a word (R70, R72), the opcode table
(R73), the total decoder (R74, R75), and the encoder written from the same table (R79). -/

namespace Sys2Proof

/-- The slice `v[lo+n-1 : lo]`, `n` bits from bit `lo` up, as an unsigned number (00_scope.md R8). -/
def slice (v lo n : Nat) : Nat := v / 2 ^ lo % 2 ^ n

/-- The command byte, bits `[7:0]` (30_encoding.md R70). -/
def wordCmd (w : Nat) : BitVec 8 := BitVec.ofNat 8 w

/-- The timestamp, bits `[TS_W+7:8]` as an unsigned number (30_encoding.md R70, R72). Bits above them are no bits of
the port and are not looked at (20_memory.md R51; assumption 1). -/
def wordTs (tsWidth : Nat) (w : Nat) : Nat := slice w 8 tsWidth

/-- The operation code, bits `[2:0]` of the command byte (30_encoding.md R70). -/
def cmdOp (cmd : BitVec 8) : BitVec 3 := cmd.extractLsb' 0 3

/-- Bit 3 of the command byte, the `level` of an edge (30_encoding.md R70). -/
def cmdLevel (cmd : BitVec 8) : Bit := cmd.extractLsb' 3 1

/-- `stream` is coded 0 `MENU`, 1 `POT` (10_state.md R28). -/
def streamBit : Stream → Bit
  | .menu => 0
  | .pot  => 1

/-- The stream a bit names (10_state.md R28). -/
def streamOfBit (b : Bit) : Stream := if b = 0 then .menu else .pot

/-- Bit 3 of the command byte of a `PAGE`, its `stream` (30_encoding.md R70, R74). -/
def cmdStream (cmd : BitVec 8) : Stream := streamOfBit (cmd.extractLsb' 3 1)

/-- Bits 4, 5 and 6 of the command byte of a `PAGE`, its clear mask (30_encoding.md R72, R74). -/
def cmdMask (cmd : BitVec 8) : PerGate Bool :=
  { menu := cmd.getLsbD 4, pot := cmd.getLsbD 5, btn := cmd.getLsbD 6 }

/-- One row of the opcode table: the command byte selects it when `cmd & mask = pattern` (30_encoding.md R73). -/
structure OpRow where
  mnemonic : String
  pattern  : BitVec 8
  mask     : BitVec 8
deriving DecidableEq, Repr

def rowNop     : OpRow := { mnemonic := "NOP",      pattern := 0x00, mask := 0xFF }
def rowEdgeA   : OpRow := { mnemonic := "EDGE_A",   pattern := 0x01, mask := 0xF7 }
def rowEdgeB   : OpRow := { mnemonic := "EDGE_B",   pattern := 0x02, mask := 0xF7 }
def rowBtnEdge : OpRow := { mnemonic := "BTN_EDGE", pattern := 0x03, mask := 0xF7 }
def rowPage    : OpRow := { mnemonic := "PAGE",     pattern := 0x04, mask := 0x87 }

/-- The opcode map (30_encoding.md R73). -/
def opTable : List OpRow := [rowNop, rowEdgeA, rowEdgeB, rowBtnEdge, rowPage]

/-- The row is the one the command byte selects (30_encoding.md R73). -/
def OpRow.selects (r : OpRow) (cmd : BitVec 8) : Bool := cmd &&& r.mask == r.pattern

/-- Why a word is illegal: the four cases of 30_encoding.md R75, each by name. -/
inductive IllegalWord where
  /-- `op` = 5, 6 or 7 with any other bits. -/
  | reservedOp
  /-- `op = 0` with any of bits `[7:3]` set. -/
  | nopBitsSet
  /-- `op` = 1, 2 or 3 with any of bits `[7:4]` set. -/
  | edgeBitsSet
  /-- `op = 4` with bit 7 set. -/
  | pageBit7Set
deriving DecidableEq, Repr

/-- What a word decodes to (30_encoding.md R74). -/
inductive Decoded where
  | instr (i : Instr)
  | illegal (why : IllegalWord)
deriving DecidableEq, Repr

/-- The name of the illegality of a command byte no row selects (30_encoding.md R75). -/
def illegalReason (cmd : BitVec 8) : IllegalWord :=
  if cmdOp cmd = 0 then .nopBitsSet
  else if cmdOp cmd = 4 then .pageBit7Set
  else if cmdOp cmd = 1 ∨ cmdOp cmd = 2 ∨ cmdOp cmd = 3 then .edgeBitsSet
  else .reservedOp

/-- The decoder of a build with timestamps of `tsWidth` bits, total on the `2^EW` words (30_encoding.md R74). -/
def decode (tsWidth : Nat) (w : Nat) : Decoded :=
  let cmd := wordCmd w
  if rowNop.selects cmd then .instr .nop
  else if rowEdgeA.selects cmd then .instr (.edgeA (cmdLevel cmd) (wordTs tsWidth w))
  else if rowEdgeB.selects cmd then .instr (.edgeB (cmdLevel cmd) (wordTs tsWidth w))
  else if rowBtnEdge.selects cmd then .instr (.btnEdge (cmdLevel cmd) (wordTs tsWidth w))
  else if rowPage.selects cmd then .instr (.page (cmdStream cmd) (cmdMask cmd))
  else .illegal (illegalReason cmd)

/-- A bit placed at position `k` of a command byte. -/
def cmdBit (b : Bit) (k : Nat) : BitVec 8 := b.setWidth 8 <<< k

/-- The command byte of an operation, by the pattern column of 30_encoding.md R73. -/
def encodeCmd : Instr → BitVec 8
  | .nop => rowNop.pattern
  | .edgeA level _ => cmdBit level 3 ||| rowEdgeA.pattern
  | .edgeB level _ => cmdBit level 3 ||| rowEdgeB.pattern
  | .btnEdge level _ => cmdBit level 3 ||| rowBtnEdge.pattern
  | .page stream mask =>
    cmdBit (BitVec.ofBool mask.btn) 6 ||| cmdBit (BitVec.ofBool mask.pot) 5
      ||| cmdBit (BitVec.ofBool mask.menu) 4 ||| cmdBit (streamBit stream) 3 ||| rowPage.pattern

/-- The timestamp operand of an operation that has one (30_encoding.md R70, R72). -/
def Instr.ts? : Instr → Option Nat
  | .nop => none
  | .edgeA _ ts => some ts
  | .edgeB _ ts => some ts
  | .btnEdge _ ts => some ts
  | .page _ _ => none

/-- The encoder: `word = (ts << 8) | cmd`, where `NOP` and `PAGE` take `ts = 0` (30_encoding.md R79).
The word of an operation that is well-formed at a width has `EW` bits at that width. -/
def encode (i : Instr) : Nat := (i.ts?.getD 0 <<< 8) ||| (encodeCmd i).toNat

/-- The event word whose low `nbits` bits are those of `w`, the bits above them 0.
Words cross the port whole, bit 0 least significant, so the opcode table's numbering is the word's own
(20_memory.md R54; assumption 12). -/
def tableWord (nbits w : Nat) : Nat := w % 2 ^ nbits

/-- The operation the decoder reads from an opcode-table word of `nbits` bits, at the width `TS_W = 64` of the table
(30_encoding.md R70). -/
def decodeTableWord (nbits w : Nat) : Option Instr :=
  match decode Config.tsWidth (tableWord nbits w) with
  | .instr i   => some i
  | .illegal _ => none

end Sys2Proof
end

