-- ==== Sys2Proof/Machine/State.lean ====
section
/-! DEFINITION. The state of the machine: the register tuple of 10_state.md R20, the read-only parameters (10_state.md
R31), and the ports (20_memory.md R51), that is the input cycles the host will drive and the output values of the
last cycle. Plain data only. -/

namespace Sys2Proof.Machine

/-- The signed values `{-1, 0, +1}`: a transition direction, `armed`, a detent (00_scope.md R8).
Three constructors, so the pattern `0b10` of 93_implementation_defined.md U13 has no counterpart. -/
inductive Sgn where
  | neg | zero | pos
deriving DecidableEq, Repr

/-- The direction of an accepted detent, `+1` clockwise or `-1` counter-clockwise (30_encoding.md R77). -/
inductive Dir where
  | cw | ccw
deriving DecidableEq, Repr

/-- The values on the input ports in one clock cycle (20_memory.md R51). -/
structure InPorts where
  rst     : Bool
  evValid : Bool
  evWord  : Nat
deriving DecidableEq, Repr

/-- The output record of a step (30_encoding.md R77). -/
inductive OutRec where
  | none
  | rot (dir : Dir) (stream : Stream) (speed : BitVec 10) (change : BitVec 7) (ts : Nat)
  | btn (level : Bit) (ts : Nat)
  | illegal
deriving DecidableEq, Repr

/-- The debug strobes of a step, `dbg_tr`, `dbg_det`, `dbg_reject` (30_encoding.md R78). -/
structure Strobes where
  tr     : BitVec 2
  det    : BitVec 2
  reject : Bit
deriving DecidableEq, Repr

/-- All strobes 0 (30_encoding.md R78). -/
def Strobes.quiet : Strobes := { tr := 0, det := 0, reject := 0 }

/-- The registers of the block, the whole tuple of 10_state.md R20. Its timestamps stay below `2^TS_W`
(00_scope.md R8), the invariant `Regs.fit` of Safety.lean. -/
structure Regs where
  /-- `level_a` (10_state.md R21). -/
  levelA       : Bit
  /-- `level_b` (10_state.md R21). -/
  levelB       : Bit
  /-- `last_state` (10_state.md R22). -/
  lastState    : Combined
  /-- `armed` (10_state.md R23). -/
  armed        : Sgn
  /-- `last_detent_ts` (10_state.md R24). -/
  lastDetentTs : Option Nat
  /-- `last_acc[g]` (10_state.md R26). -/
  lastAcc      : PerGate (Option Nat)
  /-- `last_raw[g]` (10_state.md R27). -/
  lastRaw      : PerGate (Option Nat)
  /-- `rot_stream` (10_state.md R28). -/
  rotStream    : Stream
deriving DecidableEq, Repr

/-- The state of the machine. -/
structure State where
  /-- The parameters, read-only (10_state.md R31; assumption 2). -/
  cfg     : Cfg
  /-- The registers (10_state.md R20). -/
  regs    : Regs
  /-- The input cycles the host will drive, the next one first (20_memory.md R52; assumption 4). -/
  inputs  : List InPorts
  /-- The output record presented in the last cycle (20_memory.md R53; assumption 5). -/
  out     : OutRec
  /-- The debug strobes presented in the last cycle (30_encoding.md R78; assumption 5). -/
  strobes : Strobes
deriving DecidableEq, Repr

/-- Why the machine stops with a fault: never. 60_exceptions.md R186 gives the block no trap, and X1 to X3 of R180
are reports of a step that goes on; so there is no constructor, and nobody raises one (safe; assumption 7). -/
inductive Fault where
deriving DecidableEq, Repr

/-- Why the machine refuses an instruction. -/
inductive Refusal where
  /-- Raised by an arm of `exec` whose instruction has no meaning yet; no arm raises it (safe). -/
  | notModelled (mnemonic : String)
deriving DecidableEq, Repr

/-- The reset value of every register (10_state.md R34; 70_reset_and_hazards.md R201; decision D4). -/
def Regs.reset : Regs :=
  { levelA       := 0
    levelB       := 0
    lastState    := 0
    armed        := .zero
    lastDetentTs := Option.none
    lastAcc      := { menu := Option.none, pot := Option.none, btn := Option.none }
    lastRaw      := { menu := Option.none, pot := Option.none, btn := Option.none }
    rotStream    := .menu }

/-- The machine right after reset: the registers at R34's values, the parameters as built, the outputs those of a
reset cycle (70_reset_and_hazards.md R200), and no input cycle given yet (assumption 4). -/
def State.reset : State :=
  { cfg     := Config.built
    regs    := Regs.reset
    inputs  := []
    out     := .none
    strobes := Strobes.quiet }

end Sys2Proof.Machine
end

