-- ==== Sys2Proof/Machine/Ops.lean ====
section
/-! DEFINITION. The named operations on the state: reading and writing the registers, presenting outputs, taking an
input cycle, reset, an idle cycle and the report of an illegal word. There is no memory (20_memory.md R50), and
no trap entry or return to share (60_exceptions.md R186, R187): what a processor's exception entry would be is here
`State.reportIllegal`, the whole effect of X3. -/

namespace Sys2Proof

/-- `x[g]` (00_scope.md R9). -/
def PerGate.get {α : Type} (x : PerGate α) : Gate → α
  | .menu => x.menu
  | .pot  => x.pot
  | .btn  => x.btn

/-- `x[g] <- v`, the other two unchanged (00_scope.md R9). -/
def PerGate.set {α : Type} (x : PerGate α) (g : Gate) (v : α) : PerGate α :=
  match g with
  | .menu => { x with menu := v }
  | .pot  => { x with pot := v }
  | .btn  => { x with btn := v }

end Sys2Proof

namespace Sys2Proof.Machine

/-- The four registers every edge event writes (10_state.md R36, 40_quadrature_decoder.md R103). -/
def State.writeDecoder (s : State) (a b : Bit) (new : Combined) (armed : Sgn) : State :=
  { s with regs := { s.regs with levelA := a, levelB := b, lastState := new, armed := armed } }

/-- `last_detent_ts <- v` (10_state.md R24). -/
def State.writeLastDetentTs (s : State) (v : Option Nat) : State :=
  { s with regs := { s.regs with lastDetentTs := v } }

/-- `last_acc[g] <- v` (10_state.md R26). -/
def State.writeLastAcc (s : State) (g : Gate) (v : Option Nat) : State :=
  { s with regs := { s.regs with lastAcc := s.regs.lastAcc.set g v } }

/-- `last_raw[g] <- v` (10_state.md R27). -/
def State.writeLastRaw (s : State) (g : Gate) (v : Option Nat) : State :=
  { s with regs := { s.regs with lastRaw := s.regs.lastRaw.set g v } }

/-- `rot_stream <- v` (10_state.md R28). -/
def State.writeRotStream (s : State) (v : Stream) : State :=
  { s with regs := { s.regs with rotStream := v } }

/-- The outputs of this cycle: the record and the strobes (20_memory.md R53). -/
def State.present (s : State) (out : OutRec) (strobes : Strobes) : State :=
  { s with out := out, strobes := strobes }

/-- `emit <record>` (00_scope.md R9). -/
def State.emit (s : State) (out : OutRec) : State :=
  { s with out := out }

/-- `dbg_reject = 1` (30_encoding.md R78). -/
def State.flagReject (s : State) : State :=
  { s with strobes := { s.strobes with reject := 1 } }

/-- The ports in a cycle in which the host drives nothing: `rst = 0`, `ev_valid = 0` (20_memory.md R52). -/
def InPorts.idle : InPorts := { rst := false, evValid := false, evWord := 0 }

/-- The ports in a cycle that delivers `w` (20_memory.md R52). -/
def InPorts.event (w : Nat) : InPorts := { rst := false, evValid := true, evWord := w }

/-- The ports of the next cycle: the first listed, or idle ports when none is listed (20_memory.md R52, R61;
assumption 4). -/
def State.nextInput (s : State) : InPorts := s.inputs.headD InPorts.idle

/-- The state with the next input cycle taken (20_memory.md R56, R61: a word is consumed in its cycle). -/
def State.dropInput (s : State) : State := { s with inputs := s.inputs.tail }

/-- The state in which the next input cycle is `c`, in the place of the one that was there. -/
def State.setNextInput (s : State) (c : InPorts) : State := { s with inputs := c :: s.inputs.tail }

/-- What one cycle's ports ask of the block. -/
inductive CycleAction where
  | reset
  | idle
  | event (i : Instr)
  | illegal (why : IllegalWord)
deriving DecidableEq, Repr

/-- Reset wins over an event (70_reset_and_hazards.md R200); without `ev_valid` the word is not looked at
(20_memory.md R51, R52); otherwise the word is decoded, at the build's width (30_encoding.md R74). -/
def InPorts.action (tsWidth : Nat) (c : InPorts) : CycleAction :=
  if c.rst then .reset
  else if c.evValid then
    match decode tsWidth c.evWord with
    | .instr i     => .event i
    | .illegal why => .illegal why
  else .idle

/-- What the next cycle asks of the block, decoded at the width of its build (20_memory.md R52). -/
def State.nextAction (s : State) : CycleAction := s.nextInput.action s.cfg.tsWidth

/-- A reset cycle: every register takes its reset value, the parameters stay, no output
(70_reset_and_hazards.md R200). -/
def State.resetCycle (s : State) : State :=
  ({ s with regs := Regs.reset }).present .none Strobes.quiet

/-- A cycle without an event: no register changes, all outputs 0 (20_memory.md R52). -/
def State.idleCycle (s : State) : State := s.present .none Strobes.quiet

/-- An illegal word, X3: no register is read or written, the output kind is `ILLEGAL`, the strobes are 0, and the
next event is processed normally (42_control_events.md R164, 60_exceptions.md R183). -/
def State.reportIllegal (s : State) : State := s.present .illegal Strobes.quiet

end Sys2Proof.Machine
end

