-- ==== Sys2Proof/Machine/Control.lean ====
section
/-! DEFINITION. The control events `NOP` and `PAGE` (42_control_events.md). -/

namespace Sys2Proof.Machine

/-- `NOP`: no register is read, none is written, no output (42_control_events.md R160; decision D17). -/
def execNop (s : State) : Host.Outcome State Fault Refusal :=
  .next (s.present .none Strobes.quiet)

/-- `last_acc[g] <- None` if the mask names `g`, else `last_acc[g]` (42_control_events.md R161). -/
def clearedIf (named : Bool) (v : Option Nat) : Option Nat :=
  if named then none else v

/-- `last_acc` after the clearing of the gates a mask names (42_control_events.md R161). -/
def clearNamed (mask : PerGate Bool) (acc : PerGate (Option Nat)) : PerGate (Option Nat) :=
  { menu := clearedIf mask.menu acc.menu
    pot  := clearedIf mask.pot acc.pot
    btn  := clearedIf mask.btn acc.btn }

/-- The clearing of the gates a mask names, in the state (42_control_events.md R161). -/
def State.clearGates (s : State) (mask : PerGate Bool) : State :=
  { s with regs := { s.regs with lastAcc := clearNamed mask s.regs.lastAcc } }

/-- `PAGE stream, mask`: both effects in the one step, no output (42_control_events.md R161; decisions D9, D10). -/
def execPage (stream : Stream) (mask : PerGate Bool) (s : State) : Host.Outcome State Fault Refusal :=
  .next (((s.writeRotStream stream).clearGates mask).present .none Strobes.quiet)

end Sys2Proof.Machine
end

