-- ==== Sys2Proof/Machine/Operands.lean ====
section
/-! DEFINITION. The operands of an event beyond the fields of its word: the levels an edge event works with and the
combined state they make (40_quadrature_decoder.md R100, R104), and the gate that `rot_stream` selects (R109).
The block has no addressing mode and no register-number operand (20_memory.md R63, 30_encoding.md R72). -/

namespace Sys2Proof.Machine

/-- `level_a'`, the level of pin A after an edge event (40_quadrature_decoder.md R103, R104). -/
def levelAAfter (pin : Pin) (level stored : Bit) : Bit :=
  match pin with
  | .a => level
  | .b => stored

/-- `level_b'`, the level of pin B after an edge event (40_quadrature_decoder.md R103, R104). -/
def levelBAfter (pin : Pin) (level stored : Bit) : Bit :=
  match pin with
  | .a => stored
  | .b => level

/-- The combined state `(level_a << 1) | level_b` (40_quadrature_decoder.md R100). -/
def combined (a b : Bit) : Combined := (a.setWidth 2 <<< 1) ||| b.setWidth 2

/-- The rotation gate of a stream: gate `MENU` if `rot_stream = 0`, gate `POT` if it is 1
(40_quadrature_decoder.md R109). -/
def streamGate : Stream → Gate
  | .menu => .menu
  | .pot  => .pot

end Sys2Proof.Machine
end

