-- ==== Sys2Proof/Machine/Flags.lean ====
section
/-! DEFINITION. The flag-like state and the strobe codes. The block has no condition codes (10_state.md R30); what it
has instead is `armed`, the `valid` bit of each optional timestamp, and the codes the strobes show. -/

namespace Sys2Proof.Machine

/-- `armed` after an edge event (40_quadrature_decoder.md R106). -/
def armedAfter (prev new : Combined) (d armed : Sgn) : Sgn :=
  if new = Config.home then .zero
  else if prev = Config.home then d
  else armed

/-- The 2-bit two's complement code of a signed value (00_scope.md R8). -/
def Sgn.code : Sgn → BitVec 2
  | .pos  => 0b01
  | .zero => 0b00
  | .neg  => 0b11

/-- `dbg_tr` of an edge event with table value `d` (30_encoding.md R78). -/
def transitionCode : Sgn → BitVec 2
  | .pos  => 0b01
  | .neg  => 0b11
  | .zero => 0b10

/-- The `valid` bit of an optional timestamp (00_scope.md R10). -/
def validBit : Option Nat → Bit
  | some _ => 1
  | none   => 0

/-- The value bits of an optional timestamp, 0 when it is invalid (00_scope.md R10). -/
def valueBits : Option Nat → Nat
  | some v => v
  | none   => 0

end Sys2Proof.Machine
end

