-- ==== Sys2Proof/Machine/Debounce.lean ====
section
/-! DEFINITION. The debounce gates, the speed estimator and the step tier (41_debounce_speed.md), and the meaning of
`BTN_EDGE`. -/

namespace Sys2Proof.Machine

/-- A raw event of a gate: a detent on the stream it is presented to, or a button edge (41_debounce_speed.md R131).
The `rotation` argument of R133's procedure is which of the two it is. -/
inductive RawEvent where
  | detent (stream : Stream) (dir : Dir)
  | button (level : Bit)
deriving DecidableEq, Repr

/-- The gate that sees a raw event (41_debounce_speed.md R131, 40_quadrature_decoder.md R109). -/
def RawEvent.gate : RawEvent → Gate
  | .detent stream _ => streamGate stream
  | .button _        => .btn

/-- `Elapsed(a, t) = (t - a) mod 2^TS_W`: "what a `TS_W`-bit subtractor computes" (41_debounce_speed.md R132;
decision D3). -/
def elapsed (tsWidth : Nat) (a t : Nat) : Nat := (BitVec.ofNat tsWidth t - BitVec.ofNat tsWidth a).toNat

/-- The reject condition: a prior accepted timestamp exists and the elapsed time is below the interval, unsigned and
strict (41_debounce_speed.md R135). -/
def rejects (tsWidth minInterval : Nat) (prior : Option Nat) (t : Nat) : Bool :=
  match prior with
  | none   => false
  | some a => elapsed tsWidth a t < minInterval

/-- The speed of an accepted detent (41_debounce_speed.md R137 with truncating division, decision D12; R138, decision
D13; R139, decision D11). -/
def speedOf (tsWidth : Nat) (prior : Option Nat) (t : Nat) : Nat :=
  match prior with
  | none   => 0
  | some a =>
    let e := elapsed tsWidth a t
    if e = 0 then Config.speedMax else min (Config.rateNum / e) Config.speedMax

/-- The change amount of a speed: two tiers, equality is fast (41_debounce_speed.md R140). -/
def changeOf (threshold speed : Nat) : BitVec 7 :=
  if threshold ≤ speed then Config.stepFast else Config.stepSlow

/-- The output record of an accepted raw event (41_debounce_speed.md R141, R142). -/
def acceptedOutput (cfg : Cfg) (prior : Option Nat) (t : Nat) : RawEvent → OutRec
  | .detent stream dir =>
    let speed := speedOf cfg.tsWidth prior t
    .rot dir stream (BitVec.ofNat 10 speed) (changeOf cfg.speedThreshold speed) t
  | .button level => .btn level t

/-- The gate procedure, run once for each raw event (41_debounce_speed.md R133): `last_raw` always (R134), then
reject (R135, R143) or accept (R136). It reads `last_acc` as it stood before. -/
def gateEvent (ev : RawEvent) (t : Nat) (s : State) : State :=
  let g := ev.gate
  let prior := s.regs.lastAcc.get g
  let seen := s.writeLastRaw g (some t)
  if rejects s.cfg.tsWidth (s.cfg.minInterval.get g) prior t then
    seen.flagReject
  else
    (seen.writeLastAcc g (some t)).emit (acceptedOutput s.cfg prior t ev)

/-- `BTN_EDGE level, ts` (41_debounce_speed.md R142). -/
def execBtnEdge (level : Bit) (ts : Nat) (s : State) : Host.Outcome State Fault Refusal :=
  .next (gateEvent (.button level) ts (s.present .none Strobes.quiet))

end Sys2Proof.Machine
end

