-- ==== Sys2Proof/Machine/Quadrature.lean ====
section
/-! DEFINITION. The quadrature decoder (40_quadrature_decoder.md) and the meanings of `EDGE_A` and `EDGE_B`. -/

namespace Sys2Proof.Machine

/-- The transition table `TT(p, n)` (40_quadrature_decoder.md R101). -/
def tt (p n : Combined) : Sgn :=
  if (p = 0 ∧ n = 1) ∨ (p = 1 ∧ n = 3) ∨ (p = 3 ∧ n = 2) ∨ (p = 2 ∧ n = 0) then .pos
  else if (p = 0 ∧ n = 2) ∨ (p = 2 ∧ n = 3) ∨ (p = 3 ∧ n = 1) ∨ (p = 1 ∧ n = 0) then .neg
  else .zero

/-- The detent of an edge event: valid transition, new state home, and the direction in which home was last left
(40_quadrature_decoder.md R107; decision D5). -/
def detent (d : Sgn) (new : Combined) (armed : Sgn) : Sgn :=
  if d ≠ .zero ∧ new = Config.home ∧ d = armed then d else .zero

/-- The direction of a detent, `+1` clockwise and `-1` counter-clockwise; none for 0 (00_scope.md section 5). -/
def Sgn.dir? : Sgn → Option Dir
  | .pos  => some .cw
  | .neg  => some .ccw
  | .zero => none

/-- The edge procedure `DecodeEdge` (40_quadrature_decoder.md R103), both for A and for B.
Its own writes stand whatever the gate answers (41_debounce_speed.md R143). -/
def decodeEdge (pin : Pin) (level : Bit) (t : Nat) (s : State) : State :=
  let a    := levelAAfter pin level s.regs.levelA
  let b    := levelBAfter pin level s.regs.levelB
  let prev := s.regs.lastState
  let new  := combined a b
  let d    := tt prev new
  let det  := detent d new s.regs.armed
  let decoded :=
    (s.writeDecoder a b new (armedAfter prev new d s.regs.armed)).present .none
      { tr := transitionCode d, det := det.code, reject := 0 }
  match det.dir? with
  | none     => decoded
  | some dir => gateEvent (.detent s.regs.rotStream dir) t (decoded.writeLastDetentTs (some t))

/-- `EDGE_A level, ts` (40_quadrature_decoder.md R110). -/
def execEdgeA (level : Bit) (ts : Nat) (s : State) : Host.Outcome State Fault Refusal :=
  .next (decodeEdge .a level ts s)

/-- `EDGE_B level, ts` (40_quadrature_decoder.md R111). -/
def execEdgeB (level : Bit) (ts : Nat) (s : State) : Host.Outcome State Fault Refusal :=
  .next (decodeEdge .b level ts s)

end Sys2Proof.Machine
end

