-- ==== Sys2Proof/Machine/Dispatch.lean ====
section
/-! DEFINITION. One arm for each operation of the opcode table (30_encoding.md R73, R74). -/

namespace Sys2Proof.Machine

def exec (i : Instr) (s : State) : Host.Outcome State Fault Refusal :=
  match i with
  | .nop => Sys2Proof.Machine.execNop s
  | .edgeA level ts => Sys2Proof.Machine.execEdgeA level ts s
  | .edgeB level ts => Sys2Proof.Machine.execEdgeB level ts s
  | .btnEdge level ts => Sys2Proof.Machine.execBtnEdge level ts s
  | .page stream mask => Sys2Proof.Machine.execPage stream mask s

end Sys2Proof.Machine
end

