-- ==== Sys2Proof/Machine/Step.lean ====
section
/-! DEFINITION. One step is one clock cycle: the ports of the next input cycle are taken and acted on
(00_scope.md R5, 20_memory.md R52, 70_reset_and_hazards.md R200, R220; assumption 4). -/

namespace Sys2Proof.Machine

/-- One clock cycle. An event is executed, an illegal word is reported and the machine goes on (60_exceptions.md
R183), a cycle without an event holds the registers (20_memory.md R52), and `rst` resets them. -/
def step (s : State) : Host.Outcome State Fault Refusal :=
  match s.nextAction with
  | .reset     => .next s.dropInput.resetCycle
  | .idle      => .next s.dropInput.idleCycle
  | .event i   => exec i s.dropInput
  | .illegal _ => .next s.dropInput.reportIllegal

/-- The state in which the host delivers the opcode-table word `w` of `nbits` bits in the very next cycle
(assumption 4). -/
def State.withFetchWord (s : State) (nbits w : Nat) : State :=
  s.setNextInput (InPorts.event (tableWord nbits w))

end Sys2Proof.Machine
end

