-- ==== Sys2Proof/Machine/Assembler.lean ====
section
/-! DEFINITION. The spec's assembler (30_encoding.md R79, R80): reading a line of text, expanding a pseudo-instruction
into events, and encoding a source into the event words the host delivers. What R79 and R80 leave open of it is
assumption 11. -/

namespace Sys2Proof.Machine

/-- The combined state the assembler tracks after an event (30_encoding.md R80; assumption 11: a plain `EDGE_A` or
`EDGE_B` line is tracked like the one a pseudo-instruction expands to). -/
def trackEvent (p : Combined) : Instr → Combined
  | .edgeA level _ => combined level (p.extractLsb' 0 1)
  | .edgeB level _ => combined (p.extractLsb' 1 1) level
  | .nop           => p
  | .btnEdge _ _   => p
  | .page _ _      => p

/-- The event of `STEP_TO n, ts` from tracked state `p`: if bit 1 differs, `EDGE_A n[1], ts`; else `EDGE_B n[0], ts`
(30_encoding.md R80; legal lines differ in exactly one bit). -/
def stepToEvent (p n : Combined) (ts : Nat) : Instr :=
  if p.extractLsb' 1 1 = n.extractLsb' 1 1 then .edgeB (n.extractLsb' 0 1) ts else .edgeA (n.extractLsb' 1 1) ts

/-- One `STEP_TO` of an expansion: its target and its timestamp. -/
structure StepTo where
  target : Nat
  ts     : Nat
deriving DecidableEq, Repr

/-- `DETENT_CW t0, dt`: `STEP_TO 1, t0; STEP_TO 3, t0+dt; STEP_TO 2, t0+2dt; STEP_TO 0, t0+3dt`
(30_encoding.md R80). -/
def detentCwSteps (t0 dt : Nat) : List StepTo := [⟨1, t0⟩, ⟨3, t0 + dt⟩, ⟨2, t0 + 2 * dt⟩, ⟨0, t0 + 3 * dt⟩]

/-- `DETENT_CCW t0, dt`: `STEP_TO 2, t0; STEP_TO 3, t0+dt; STEP_TO 1, t0+2dt; STEP_TO 0, t0+3dt`
(30_encoding.md R80). -/
def detentCcwSteps (t0 dt : Nat) : List StepTo := [⟨2, t0⟩, ⟨3, t0 + dt⟩, ⟨1, t0 + 2 * dt⟩, ⟨0, t0 + 3 * dt⟩]

/-- `n` is a combined state and differs from the tracked state `p` in exactly one bit (30_encoding.md R80: with
`n = p` or both bits different it "is an assembler error"). -/
def oneBitApart (p : Combined) (n : Nat) : Bool :=
  n < 4 && (p ^^^ BitVec.ofNat 2 n == 1 || p ^^^ BitVec.ofNat 2 n == 2)

/-- Every `STEP_TO` of a sequence is legal at the state the assembler then tracks, from tracked state `p` on; its
timestamp is one of the edge event it stands for (30_encoding.md R79, R80). -/
def stepsLegal (tsWidth : Nat) : Combined → List StepTo → Bool
  | _, [] => true
  | p, x :: rest => oneBitApart p x.target && tsInRange tsWidth x.ts && stepsLegal tsWidth (BitVec.ofNat 2 x.target) rest

/-- The events of a sequence of `STEP_TO`, from tracked state `p` on; after each the assembler tracks its target
(30_encoding.md R80). -/
def stepEvents : Combined → List StepTo → List Instr
  | _, [] => []
  | p, x :: rest => stepToEvent p (BitVec.ofNat 2 x.target) x.ts :: stepEvents (BitVec.ofNat 2 x.target) rest

/-- The clear mask that a list of gate names stands for (30_encoding.md R72, R79). -/
def maskOfNames (names : List Gate) : PerGate Bool :=
  { menu := names.elem .menu, pot := names.elem .pot, btn := names.elem .btn }

/-- The events of a legal line, with `p` the tracked state (30_encoding.md R79, R80). -/
def lineEvents (p : Combined) : AsmLine → List Instr
  | .nop              => [.nop]
  | .edgeA level ts   => [.edgeA (BitVec.ofNat 1 level) ts]
  | .edgeB level ts   => [.edgeB (BitVec.ofNat 1 level) ts]
  | .btnEdge level ts => [.btnEdge (BitVec.ofNat 1 level) ts]
  | .page stream mask => [.page stream (maskOfNames mask)]
  | .tick             => [.nop]
  | .select stream    => [.page stream (maskOfNames [])]
  | .stepTo n ts      => stepEvents p [⟨n, ts⟩]
  | .detentCw t0 dt   => stepEvents p (detentCwSteps t0 dt)
  | .detentCcw t0 dt  => stepEvents p (detentCcwSteps t0 dt)

end Sys2Proof.Machine

namespace Sys2Proof

open Sys2Proof.Machine

/-- The line is legal in a build with timestamps of `tsWidth` bits, when the assembler tracks the combined state `p`
(30_encoding.md R79, R80). A click line is legal when each of the steps it expands to is: from tracked state 0, where
the spec lists its events, and from tracked state 3. -/
def AsmLine.wf (tsWidth : Nat) (p : Combined) : AsmLine → Bool
  | .nop              => true
  | .edgeA level ts   => levelInRange level && tsInRange tsWidth ts
  | .edgeB level ts   => levelInRange level && tsInRange tsWidth ts
  | .btnEdge level ts => levelInRange level && tsInRange tsWidth ts
  | .page _ _         => true
  | .tick             => true
  | .select _         => true
  | .stepTo n ts      => stepsLegal tsWidth p [⟨n, ts⟩]
  | .detentCw t0 dt   => stepsLegal tsWidth p (detentCwSteps t0 dt)
  | .detentCcw t0 dt  => stepsLegal tsWidth p (detentCcwSteps t0 dt)

end Sys2Proof

namespace Sys2Proof.Machine

/-- The events of a source, line after line, from tracked state `p`; `none` at the first illegal line
(30_encoding.md R80: "an assembler error"). -/
def expandLines (tsWidth : Nat) (p : Combined) : List AsmLine → Option (List Instr)
  | [] => some []
  | l :: rest =>
    if l.wf tsWidth p then
      let events := lineEvents p l
      (expandLines tsWidth (events.foldl trackEvent p) rest).map (events ++ ·)
    else none

/-- The event words of a source; the tracked state is 0 after reset (30_encoding.md R79, R80). -/
def assemble (tsWidth : Nat) (source : List AsmLine) : Option (List Nat) :=
  (expandLines tsWidth 0 source).map (·.map encode)

/-! ### The text of a line (30_encoding.md R79) -/

/-- Blanks that may stand around a token (assumption 11). -/
def isBlank (c : Char) : Bool := c == ' ' || c == '\t'

/-- The text without the blanks at its two ends. -/
def trimBlanks (s : List Char) : List Char :=
  ((s.dropWhile isBlank).reverse.dropWhile isBlank).reverse

/-- The pieces between the occurrences of `sep`, each trimmed. -/
def pieces (sep : Char) : List Char → List Char → List (List Char)
  | acc, [] => [trimBlanks acc.reverse]
  | acc, c :: cs => if c == sep then trimBlanks acc.reverse :: pieces sep [] cs else pieces sep (c :: acc) cs

/-- The value of a digit in a base up to 16. -/
def digitValue (base : Nat) (c : Char) : Option Nat :=
  let v := if '0' ≤ c ∧ c ≤ '9' then some (c.toNat - 48)
    else if 'a' ≤ c ∧ c ≤ 'f' then some (c.toNat - 87)
    else if 'A' ≤ c ∧ c ≤ 'F' then some (c.toNat - 55)
    else none
  v.filter (· < base)

/-- The number the digits continue from `acc`. -/
def digitsFrom (base : Nat) (acc : Nat) : List Char → Option Nat
  | [] => some acc
  | c :: cs =>
    match digitValue base c with
    | some d => digitsFrom base (acc * base + d) cs
    | none   => none

/-- A number, decimal or `0x` hexadecimal (30_encoding.md R79). DESIGN CHOICE (assumption 11): leading zeros are
allowed, the prefix is `0x` with a small x and at least one digit follows it, and there is no sign or separator. -/
def readNumber : List Char → Option Nat
  | [] => none
  | '0' :: 'x' :: c :: cs => digitsFrom 16 0 (c :: cs)
  | c :: cs => digitsFrom 10 0 (c :: cs)

/-- A stream name (30_encoding.md R79). -/
def readStream (s : List Char) : Option Stream :=
  if s = ['M', 'E', 'N', 'U'] then some .menu
  else if s = ['P', 'O', 'T'] then some .pot
  else none

/-- A gate name of a clear mask (30_encoding.md R79). -/
def readGate (s : List Char) : Option Gate :=
  if s = ['M', 'E', 'N', 'U'] then some .menu
  else if s = ['P', 'O', 'T'] then some .pot
  else if s = ['B', 'T', 'N'] then some .btn
  else none

/-- Every name of a list read, or `none`. -/
def readGates : List (List Char) → Option (List Gate)
  | [] => some []
  | s :: rest => (readGate s).bind fun g => (readGates rest).map (g :: ·)

/-- A clear mask: `0`, or names joined by `|` (30_encoding.md R79). DESIGN CHOICE (assumption 11): the `0` is that one
character; another form of the number 0, such as `0x0` or `00`, is an error. -/
def readMask (s : List Char) : Option (List Gate) :=
  if s = ['0'] then some [] else readGates (pieces '|' [] s)

/-- A line of two numbers. -/
def twoNumbers (mk : Nat → Nat → AsmLine) (x y : List Char) : Option AsmLine :=
  (readNumber x).bind fun m => (readNumber y).map (mk m)

/-- A line from its mnemonic and its operands (30_encoding.md R79, R80). -/
def readOperands (name : List Char) : List (List Char) → Option AsmLine
  | [] =>
    if name = ['N', 'O', 'P'] then some .nop
    else if name = ['T', 'I', 'C', 'K'] then some .tick
    else none
  | [x] => if name = ['S', 'E', 'L', 'E', 'C', 'T'] then (readStream x).map .select else none
  | [x, y] =>
    if name = ['E', 'D', 'G', 'E', '_', 'A'] then twoNumbers .edgeA x y
    else if name = ['E', 'D', 'G', 'E', '_', 'B'] then twoNumbers .edgeB x y
    else if name = ['B', 'T', 'N', '_', 'E', 'D', 'G', 'E'] then twoNumbers .btnEdge x y
    else if name = ['S', 'T', 'E', 'P', '_', 'T', 'O'] then twoNumbers .stepTo x y
    else if name = ['D', 'E', 'T', 'E', 'N', 'T', '_', 'C', 'W'] then twoNumbers .detentCw x y
    else if name = ['D', 'E', 'T', 'E', 'N', 'T', '_', 'C', 'C', 'W'] then twoNumbers .detentCcw x y
    else if name = ['P', 'A', 'G', 'E'] then (readStream x).bind fun s => (readMask y).map (.page s)
    else none
  | _ :: _ :: _ :: _ => none

/-- What a line of text holds. -/
inductive LineText where
  | empty
  | line (l : AsmLine)
  | error
deriving DecidableEq, Repr

/-- A line of text: `;` starts a comment, the mnemonic stands first, commas separate the operands
(30_encoding.md R79). -/
def readLine (text : List Char) : LineText :=
  let code := trimBlanks (text.takeWhile (· != ';'))
  let name := code.takeWhile (fun c => !isBlank c)
  let operands := trimBlanks (code.drop name.length)
  if code = [] then .empty
  else
    match readOperands name (if operands = [] then [] else pieces ',' [] operands) with
    | some l => .line l
    | none   => .error

/-- The lines of a source text; `none` when one of them cannot be read. DESIGN CHOICE (assumption 11): a line that is
blank, or blank but for a comment, is skipped, with no event and no error. -/
def readLines : List (List Char) → Option (List AsmLine)
  | [] => some []
  | t :: rest =>
    match readLine t with
    | .empty  => readLines rest
    | .line l => (readLines rest).map (l :: ·)
    | .error  => none

/-- The event words of a source text (30_encoding.md R79, R80). -/
def assembleText (tsWidth : Nat) (source : List (List Char)) : Option (List Nat) :=
  (readLines source).bind (assemble tsWidth)

end Sys2Proof.Machine
end

