-- ==== Sys2Proof/Machine/Output.lean ====
section
/-! DEFINITION. What the host sees of the block: the output port (20_memory.md R51, R53; 30_encoding.md R77), and the
status outputs, on which every register is continuously visible (10_state.md R32). -/

namespace Sys2Proof.Machine

/-- The 2-bit code of a detent's direction: `0b01` clockwise, `0b11` counter-clockwise (30_encoding.md R77). -/
def Dir.code : Dir → BitVec 2
  | .cw  => 0b01
  | .ccw => 0b11

/-- The `kind` field, bits `[1:0]` of the output word (30_encoding.md R77). -/
def OutRec.kind : OutRec → BitVec 2
  | .none          => 0b00
  | .rot _ _ _ _ _ => 0b01
  | .btn _ _       => 0b10
  | .illegal       => 0b11

/-- The fields of an output word put together: the timestamp in bits `[TS_W+23:24]`, bit 23 zero, and the fields
below it, bit 0 on the right (30_encoding.md R77). -/
def outFields (tsWidth : Nat) (ts : Nat) (change : BitVec 7) (speed : BitVec 10) (level stream : Bit)
    (dir kind : BitVec 2) : Nat :=
  (slice ts 0 tsWidth <<< 24) ||| (change ++ speed ++ level ++ stream ++ dir ++ kind).toNat

/-- `out_word` of a record; a field a kind does not use is 0, and the word of `NONE` is 0 (30_encoding.md R77). -/
def OutRec.word (tsWidth : Nat) : OutRec → Nat
  | .none                          => 0
  | .rot dir stream speed change ts => outFields tsWidth ts change speed 0 (streamBit stream) dir.code 0b01
  | .btn level ts                  => outFields tsWidth ts 0 0 level 0 0 0b10
  | .illegal                       => outFields tsWidth 0 0 0 0 0 0 0b11

/-- `out_valid` of a record: 0 for `NONE`, 1 otherwise (30_encoding.md R77). -/
def OutRec.valid : OutRec → Bit
  | .none          => 0
  | .rot _ _ _ _ _ => 1
  | .btn _ _       => 1
  | .illegal       => 1

/-- The values on the output ports in one cycle (20_memory.md R51). -/
structure OutPorts where
  outValid  : Bit
  outWord   : Nat
  dbgTr     : BitVec 2
  dbgDet    : BitVec 2
  dbgReject : Bit
deriving DecidableEq, Repr

/-- The output ports of the last cycle (20_memory.md R53). -/
def State.outPorts (s : State) : OutPorts :=
  { outValid  := s.out.valid
    outWord   := s.out.word s.cfg.tsWidth
    dbgTr     := s.strobes.tr
    dbgDet    := s.strobes.det
    dbgReject := s.strobes.reject }

/-- An optional timestamp on the status outputs, the pair `*_valid`, `*_value` of 1 and `TS_W` bits
(00_scope.md R10, 10_state.md R32). -/
structure TsPort where
  valid : Bit
  value : Nat
deriving DecidableEq, Repr

/-- The hardware form of an optional timestamp (00_scope.md R10). -/
def tsPort (tsWidth : Nat) (v : Option Nat) : TsPort :=
  { valid := validBit v, value := slice (valueBits v) 0 tsWidth }

/-- The status outputs, one for every register, of the same name and width (10_state.md R32). -/
structure StatusPorts where
  levelA       : Bit
  levelB       : Bit
  lastState    : BitVec 2
  armed        : BitVec 2
  lastDetentTs : TsPort
  lastAcc      : PerGate TsPort
  lastRaw      : PerGate TsPort
  rotStream    : Bit
deriving DecidableEq, Repr

/-- The status outputs of a state; reading them changes nothing (10_state.md R32, 20_memory.md R57). -/
def State.status (s : State) : StatusPorts :=
  { levelA       := s.regs.levelA
    levelB       := s.regs.levelB
    lastState    := s.regs.lastState
    armed        := s.regs.armed.code
    lastDetentTs := tsPort s.cfg.tsWidth s.regs.lastDetentTs
    lastAcc      := { menu := tsPort s.cfg.tsWidth s.regs.lastAcc.menu
                      pot  := tsPort s.cfg.tsWidth s.regs.lastAcc.pot
                      btn  := tsPort s.cfg.tsWidth s.regs.lastAcc.btn }
    lastRaw      := { menu := tsPort s.cfg.tsWidth s.regs.lastRaw.menu
                      pot  := tsPort s.cfg.tsWidth s.regs.lastRaw.pot
                      btn  := tsPort s.cfg.tsWidth s.regs.lastRaw.btn }
    rotStream    := streamBit s.regs.rotStream }

end Sys2Proof.Machine
end

