-- ==== Sys2Proof/Safety.lean ====
section
/-! DEFINITION. The terms claims are stated in: the invariants of 10_state.md R35, what a run shows on its output
ports, the duties of the host (20_memory.md R62, 42_control_events.md R163), the gate and edge procedures written as
relations over natural numbers, and the "count four quarter-steps" decoder of 40_quadrature_decoder.md R112. -/

namespace Sys2Proof.Machine

/-! ### Invariants (10_state.md R35) -/

/-- I-1: `last_state = (level_a << 1) | level_b`. -/
abbrev Regs.levelsAgree (r : Regs) : Prop := r.lastState = combined r.levelA r.levelB

/-- I-3: `armed = 0` if and only if `last_state = 0`. -/
abbrev Regs.armedAway (r : Regs) : Prop := r.armed = .zero ↔ r.lastState = 0

/-- I-5, first half: a gate that has accepted an event has seen one. -/
def Regs.acceptedWasSeen (r : Regs) : Prop := ∀ g, r.lastAcc.get g ≠ none → r.lastRaw.get g ≠ none

/-- What I-6 comes to in one state: `last_detent_ts` is the raw timestamp of one of the two rotation gates, and is
`None` exactly while neither has seen a detent (10_state.md R24, R27, R35). -/
def Regs.detentWasSeen (r : Regs) : Prop :=
  (r.lastDetentTs = none ↔ r.lastRaw.menu = none ∧ r.lastRaw.pot = none) ∧
  (r.lastDetentTs ≠ none → r.lastDetentTs = r.lastRaw.menu ∨ r.lastDetentTs = r.lastRaw.pot)

/-- Every timestamp the registers hold is below `2^TS_W` (00_scope.md R8, R10). -/
structure Regs.fit (tsWidth : Nat) (r : Regs) : Prop where
  lastDetentTs : ∀ t, r.lastDetentTs = some t → t < 2 ^ tsWidth
  lastAcc      : ∀ g t, r.lastAcc.get g = some t → t < 2 ^ tsWidth
  lastRaw      : ∀ g t, r.lastRaw.get g = some t → t < 2 ^ tsWidth

/-- The invariants: those of 10_state.md R35 that one state can show (I-2 speaks of one event, so claims say it of
`exec`, and I-4 holds by the type of `armed`), the constraints on the parameters (00_scope.md R7), and the range of the
timestamps (00_scope.md R8). -/
structure Inv (s : State) : Prop where
  cfgWf           : s.cfg.wf = true
  fit             : s.regs.fit s.cfg.tsWidth
  levelsAgree     : s.regs.levelsAgree
  armedAway       : s.regs.armedAway
  acceptedWasSeen : s.regs.acceptedWasSeen
  detentWasSeen   : s.regs.detentWasSeen

/-- The decoder rests at home, as after reset and after every click (40_quadrature_decoder.md R112 P-5). -/
structure AtHome (s : State) : Prop where
  levelA    : s.regs.levelA = 0
  levelB    : s.regs.levelB = 0
  lastState : s.regs.lastState = 0
  armed     : s.regs.armed = .zero

/-! ### What a run shows -/

/-- The output record and the strobes of each of the next `n` cycles (20_memory.md R59 (c)). -/
def portTrace : Nat → State → List (OutRec × Strobes)
  | 0, _ => []
  | n + 1, s =>
    match step s with
    | .next u    => (u.out, u.strobes) :: portTrace n u
    | .fault _   => []
    | .refused _ => []

/-- The output record and the strobes of each operation of a list, executed one after the other. -/
def execTrace : List Instr → State → List (OutRec × Strobes)
  | [], _ => []
  | i :: rest, s =>
    match exec i s with
    | .next u    => (u.out, u.strobes) :: execTrace rest u
    | .fault _   => []
    | .refused _ => []

/-- The records of a trace that reach the host, those not of kind `NONE` (30_encoding.md R77). -/
def forwarded (trace : List (OutRec × Strobes)) : List OutRec :=
  (trace.map Prod.fst).filter (· ≠ .none)

/-- The `dbg_det` values of a trace. -/
def detents (trace : List (OutRec × Strobes)) : List (BitVec 2) := trace.map (·.2.det)

/-- The timestamp of a record that gate `g` forwarded (30_encoding.md R77). -/
def OutRec.tsFrom (g : Gate) : OutRec → Option Nat
  | .none                => Option.none
  | .rot _ stream _ _ ts => if streamGate stream = g then some ts else Option.none
  | .btn _ ts            => if g = .btn then some ts else Option.none
  | .illegal             => Option.none

/-- The state with another list of input cycles. -/
def State.withInputs (s : State) (cs : List InPorts) : State := { s with inputs := cs }

/-! ### The duties of the host (20_memory.md R62) -/

/-- The operation a cycle delivers to a build with timestamps of `tsWidth` bits, if it delivers one. -/
def InPorts.delivered (tsWidth : Nat) (c : InPorts) : Option Instr :=
  match c.action tsWidth with
  | .event i   => some i
  | .reset     => none
  | .idle      => none
  | .illegal _ => none

/-- The timestamp operand a cycle delivers, if any. -/
def InPorts.ts? (tsWidth : Nat) (c : InPorts) : Option Nat := (c.delivered tsWidth).bind Instr.ts?

/-- The timestamps of the edge and button events of some cycles, in order. -/
def timestamps (tsWidth : Nat) (cs : List InPorts) : List Nat := cs.filterMap (InPorts.ts? tsWidth)

/-- MONO: the timestamps do not decrease as natural numbers, so every difference is below `2^TS_W` (20_memory.md R62;
93_implementation_defined.md U1). -/
def Mono (tsWidth : Nat) (cs : List InPorts) : Prop := (timestamps tsWidth cs).Pairwise (· ≤ ·)

/-- The cycle delivers a `PAGE` whose mask names gate `g`. -/
def InPorts.clears (tsWidth : Nat) (g : Gate) (c : InPorts) : Bool :=
  match c.delivered tsWidth with
  | some (.page _ mask) => mask.get g
  | some .nop           => false
  | some (.edgeA _ _)   => false
  | some (.edgeB _ _)   => false
  | some (.btnEdge _ _) => false
  | none                => false

/-- The state of a run whose host keeps MONO: the coming timestamps do not decrease, none is below one already seen,
a gate that has accepted an event has seen one, and no accepted timestamp is above the last one seen of its gate
(10_state.md R35 I-5, both halves). -/
structure MonoInv (s : State) : Prop where
  coming : Mono s.cfg.tsWidth s.inputs
  seen   : s.regs.acceptedWasSeen
  ahead  : ∀ g r t, s.regs.lastRaw.get g = some r → t ∈ timestamps s.cfg.tsWidth s.inputs → r ≤ t
  behind : ∀ g a r, s.regs.lastAcc.get g = some a → s.regs.lastRaw.get g = some r → a ≤ r

/-- The four pages of the surrounding page machine (42_control_events.md R163). -/
inductive Page where
  | mainSelect | varConstChoice | constantSelect | potAdjust
deriving DecidableEq, Repr

/-- The stream a page uses: `POT` on `PotAdjust`, `MENU` on every other page (42_control_events.md R163; decision
D21). -/
def Page.stream : Page → Stream
  | .mainSelect     => .menu
  | .varConstChoice => .menu
  | .constantSelect => .menu
  | .potAdjust      => .pot

/-- PAGE-CLEAR and the stream of the page entered: what the host should send at a page transition
(42_control_events.md R163, 20_memory.md R62; decisions D10, D21). -/
def MeetsPageDuty (entered : Page) (i : Instr) : Prop :=
  ∃ mask, i = .page entered.stream mask ∧ mask.get (streamGate entered.stream) = true

/-- The `PAGE` event that is always sufficient, with both rotation gates and not the button gate in its mask
(42_control_events.md R163; decision D10). -/
def recommendedPage (entered : Page) : Instr := .page entered.stream { menu := true, pot := true, btn := false }

/-! ### The gate procedure and the edge procedure as relations -/

/-- `Elapsed(a, t) = (t - a) mod 2^TS_W`, the difference of the two numbers reduced to a natural below `2^TS_W`
(41_debounce_speed.md R132; decision D3). -/
def elapsedNat (tsWidth : Nat) (a t : Nat) : Nat := (((t : Int) - (a : Int)) % ((2 ^ tsWidth : Nat) : Int)).toNat

/-- The reject condition (41_debounce_speed.md R135). -/
def Rejected (cfg : Cfg) (g : Gate) (prior : Option Nat) (t : Nat) : Prop :=
  ∃ a, prior = some a ∧ elapsedNat cfg.tsWidth a t < cfg.minInterval.get g

/-- The speed of an accepted detent (41_debounce_speed.md R137, R138, R139; decisions D11, D12, D13). -/
def specSpeed (tsWidth : Nat) (prior : Option Nat) (t : Nat) : Nat :=
  match prior with
  | none   => 0
  | some a => if elapsedNat tsWidth a t = 0 then 1000 else min (1000000 / elapsedNat tsWidth a t) 1000

/-- The record an accepted raw event forwards (41_debounce_speed.md R140, R141, R142). -/
def specOutput (cfg : Cfg) (prior : Option Nat) (t : Nat) : RawEvent → OutRec
  | .detent stream dir =>
    .rot dir stream (BitVec.ofNat 10 (specSpeed cfg.tsWidth prior t))
      (if cfg.speedThreshold ≤ specSpeed cfg.tsWidth prior t then 100 else 10) t
  | .button level => .btn level t

/-- The gate procedure from the state `s` before the event to the state `u` after it, as far as it says anything of
`u`: the two registers of the gate, the record and `dbg_reject` (41_debounce_speed.md R133 to R136). -/
structure GateSpec (ev : RawEvent) (t : Nat) (s u : State) : Prop where
  seen : u.regs.lastRaw = s.regs.lastRaw.set ev.gate (some t)
  reject : Rejected s.cfg ev.gate (s.regs.lastAcc.get ev.gate) t →
    u.regs.lastAcc = s.regs.lastAcc ∧ u.out = .none ∧ u.strobes.reject = 1
  accept : ¬ Rejected s.cfg ev.gate (s.regs.lastAcc.get ev.gate) t →
    u.regs.lastAcc = s.regs.lastAcc.set ev.gate (some t) ∧
    u.out = specOutput s.cfg (s.regs.lastAcc.get ev.gate) t ev ∧ u.strobes.reject = 0

/-- The edge event of a pin (40_quadrature_decoder.md R103). -/
def edgeInstr : Pin → Bit → Nat → Instr
  | .a, level, ts => .edgeA level ts
  | .b, level, ts => .edgeB level ts

/-- The stored level of a pin (40_quadrature_decoder.md R104). -/
def Regs.level (r : Regs) : Pin → Bit
  | .a => r.levelA
  | .b => r.levelB

/-- `newState` of an edge event (40_quadrature_decoder.md R103, step 1). -/
def newState (pin : Pin) (level : Bit) (r : Regs) : Combined :=
  match pin with
  | .a => combined level r.levelB
  | .b => combined r.levelA level

/-- The direction of a non-zero table value. -/
def dirOf (d : Sgn) : Dir := if d = .pos then .cw else .ccw

/-- An edge event completes a click: a valid transition, into home, in the direction in which home was left
(40_quadrature_decoder.md R107; decision D5). -/
def CompletesClick (pin : Pin) (level : Bit) (r : Regs) : Prop :=
  tt r.lastState (newState pin level r) ≠ .zero ∧ newState pin level r = 0 ∧
  tt r.lastState (newState pin level r) = r.armed

/-- The edge procedure from the state `s` before the event to the state `u` after it
(40_quadrature_decoder.md R103 to R109; 30_encoding.md R78 for the strobes). -/
structure EdgeSpec (pin : Pin) (level : Bit) (t : Nat) (s u : State) : Prop where
  cfg : u.cfg = s.cfg
  inputs : u.inputs = s.inputs
  rotStream : u.regs.rotStream = s.regs.rotStream
  levelA : u.regs.levelA = (if pin = .a then level else s.regs.levelA)
  levelB : u.regs.levelB = (if pin = .b then level else s.regs.levelB)
  lastState : u.regs.lastState = newState pin level s.regs
  armed : u.regs.armed = (if newState pin level s.regs = 0 then .zero
    else if s.regs.lastState = 0 then tt s.regs.lastState (newState pin level s.regs) else s.regs.armed)
  tr : u.strobes.tr = (if tt s.regs.lastState (newState pin level s.regs) = .pos then 0b01
    else if tt s.regs.lastState (newState pin level s.regs) = .neg then 0b11 else 0b10)
  noDetent : ¬ CompletesClick pin level s.regs →
    u.strobes.det = 0 ∧ u.strobes.reject = 0 ∧ u.out = .none ∧ u.regs.lastDetentTs = s.regs.lastDetentTs ∧
    u.regs.lastAcc = s.regs.lastAcc ∧ u.regs.lastRaw = s.regs.lastRaw
  detent : CompletesClick pin level s.regs →
    u.strobes.det = (if s.regs.armed = .pos then 0b01 else 0b11) ∧ u.regs.lastDetentTs = some t ∧
    GateSpec (.detent s.regs.rotStream (dirOf s.regs.armed)) t s u

/-! ### The counting decoder (40_quadrature_decoder.md R112 P-2) -/

/-- The state of a decoder that counts: the stored levels, and the sum of the table values since home. -/
structure CountState where
  a   : Bit
  b   : Bit
  sum : Int
deriving DecidableEq, Repr

/-- The counting decoder at reset. -/
def CountState.reset : CountState := { a := 0, b := 0, sum := 0 }

/-- The value of a table entry as an integer. -/
def Sgn.toInt : Sgn → Int
  | .neg  => -1
  | .zero => 0
  | .pos  => 1

/-- What the counting decoder reports on arrival at home: the three sums that may occur, anything else `none`. -/
def sumReport (sum : Int) : Option (BitVec 2) :=
  if sum = 4 then some 0b01 else if sum = -4 then some 0b11 else if sum = 0 then some 0b00 else none

/-- One edge event in the counting decoder: the next state and the reported detent. -/
def CountState.edge (c : CountState) (pin : Pin) (level : Bit) : CountState × Option (BitVec 2) :=
  let a := if pin = .a then level else c.a
  let b := if pin = .b then level else c.b
  let sum := c.sum + (tt (combined c.a c.b) (combined a b)).toInt
  if combined a b = 0 then ({ a := a, b := b, sum := 0 }, sumReport sum)
  else ({ a := a, b := b, sum := sum }, some 0b00)

/-- One cycle in the counting decoder; only edges and reset act on it. -/
def CountState.cycle (tsWidth : Nat) (c : CountState) (i : InPorts) : CountState × Option (BitVec 2) :=
  match i.action tsWidth with
  | .reset                 => (CountState.reset, some 0b00)
  | .idle                  => (c, some 0b00)
  | .illegal _             => (c, some 0b00)
  | .event (.edgeA level _) => c.edge .a level
  | .event (.edgeB level _) => c.edge .b level
  | .event (.btnEdge _ _)  => (c, some 0b00)
  | .event (.page _ _)     => (c, some 0b00)
  | .event .nop            => (c, some 0b00)

/-- What the counting decoder reports in each of some cycles. -/
def countTrace (tsWidth : Nat) : List InPorts → CountState → List (Option (BitVec 2))
  | [], _ => []
  | i :: rest, c => (c.cycle tsWidth i).2 :: countTrace tsWidth rest (c.cycle tsWidth i).1

/-- The machine's decoder and the counting decoder agree: the same levels, `last_state` their combined state, and
`armed` the direction of the 0 to 3 net quarter-steps counted since home, as far along the circle
`0→1→3→2→0` (clockwise) or `0→2→3→1→0` (counter-clockwise) as `last_state` is
(40_quadrature_decoder.md R106, R112 P-2; decision D5). -/
structure CountsWith (r : Regs) (c : CountState) : Prop where
  levelA      : r.levelA = c.a
  levelB      : r.levelB = c.b
  levelsAgree : r.levelsAgree
  sum         : (r.lastState = 0 ∧ r.armed = .zero ∧ c.sum = 0) ∨
    (r.armed = .pos ∧ ((r.lastState = 1 ∧ c.sum = 1) ∨ (r.lastState = 3 ∧ c.sum = 2) ∨ (r.lastState = 2 ∧ c.sum = 3))) ∨
    (r.armed = .neg ∧ ((r.lastState = 2 ∧ c.sum = -1) ∨ (r.lastState = 3 ∧ c.sum = -2) ∨ (r.lastState = 1 ∧ c.sum = -3)))

end Sys2Proof.Machine
end

