-- ==== Sys2Proof/Certificates/Slice0/Obligations.lean ====
section
/-! DEFINITION. The statements for the provers, in the order of OBLIGATIONS.json. Each docstring names the rule of the
spec it formalises; a statement that rests on a decision of the spec (92_eei_decisions.md D<n>) or on an assumption of
the model's log says so. -/

open Sys2Proof Sys2Proof.Machine

/-! ### Event words (30_encoding.md) -/

/-- At every width, encoding a well-formed operation gives a word of `EW` bits, and decoding it gives the operation back,
with every operand at every value (30_encoding.md R70 to R74, R79; decisions D2, D3). -/
def Obligations.DecodeEncodeRoundTrip : Prop :=
  ∀ (tsWidth : Nat) (i : Instr), i.wf tsWidth = true →
    decode tsWidth (encode i) = .instr i ∧ encode i < 2 ^ (tsWidth + 8)

/-- At every width, a word that decodes to an operation decodes to a well-formed one, has its command byte, and is its
encoding where the operation carries a timestamp; where it carries none, the upper bits are ignored
(30_encoding.md R70, R72, R74, R76; decisions D2, D3, D17). -/
def Obligations.DecodedWordsAreEncodings : Prop :=
  ∀ (tsWidth : Nat) (w : Nat) (i : Instr), decode tsWidth w = .instr i →
    i.wf tsWidth = true ∧ wordCmd w = encodeCmd i ∧
    (∀ ts, i.ts? = some ts → wordTs tsWidth w = ts ∧ (w < 2 ^ (tsWidth + 8) → encode i = w)) ∧
    (i.ts? = none → ∀ w' : Nat, wordCmd w' = wordCmd w → decode tsWidth w' = .instr i)

/-- At every width, a word is illegal exactly by the patterns of 30_encoding.md R75, each with its own name; the last
clause says that nothing else is illegal (decision D16; the four names are the model's, assumption 9). -/
def Obligations.IllegalWordsAreThePatternsOfR75 : Prop :=
  ∀ (tsWidth : Nat) (w : Nat),
    (decode tsWidth w = .illegal .reservedOp ↔ 5 ≤ slice w 0 3) ∧
    (decode tsWidth w = .illegal .nopBitsSet ↔ slice w 0 3 = 0 ∧ slice w 3 5 ≠ 0) ∧
    (decode tsWidth w = .illegal .edgeBitsSet ↔ 1 ≤ slice w 0 3 ∧ slice w 0 3 ≤ 3 ∧ slice w 4 4 ≠ 0) ∧
    (decode tsWidth w = .illegal .pageBit7Set ↔ slice w 0 3 = 4 ∧ slice w 7 1 = 1) ∧
    ((∃ why, decode tsWidth w = .illegal why) ↔ ∀ r ∈ opTable, r.selects (wordCmd w) = false)

/-- The rows of the opcode table are mutually exclusive, and 23 of the 256 command bytes are legal
(30_encoding.md R73; decision D2). -/
def Obligations.OpcodeRowsAreExclusive : Prop :=
  (∀ cmd : BitVec 8, (opTable.filter (·.selects cmd)).length ≤ 1) ∧
  ((List.range 256).filter fun n => opTable.any (·.selects (BitVec.ofNat 8 n))).length = 23

/-- Words written out from 30_encoding.md R70 and R73 decode to the operations they stand for: five of 72 bits, at
`TS_W = 64`, and one of 40 bits, at `TS_W = 32` (decisions D2, D3). -/
def Obligations.SpecWordsDecode : Prop :=
  decode 64 0x000000000000000000 = .instr .nop ∧
  decode 64 0x0000000000000FA001 = .instr (.edgeA 0 4000) ∧
  decode 64 0x00000000000003E80A = .instr (.edgeB 1 1000) ∧
  decode 64 0x00000000004F58800B = .instr (.btnEdge 1 5200000) ∧
  decode 64 0x00000000000000003C = .instr (.page .pot { menu := true, pot := true, btn := false }) ∧
  decode 32 0xFFFFFFFF0A = .instr (.edgeB 1 4294967295)

/-- The value of an encoded word: the timestamp above the command byte, with the level in bit 3
(40_quadrature_decoder.md R110, R111; 41_debounce_speed.md R142; 42_control_events.md R160, R161; decision D2). -/
def Obligations.EncodedWordValues : Prop :=
  (∀ (level : Bit) (ts : Nat),
    encode (.edgeA level ts) = ts * 256 + level.toNat * 8 + 1 ∧
    encode (.edgeB level ts) = ts * 256 + level.toNat * 8 + 2 ∧
    encode (.btnEdge level ts) = ts * 256 + level.toNat * 8 + 3) ∧
  encode .nop = 0 ∧
  (∀ (stream : Stream) (mask : PerGate Bool),
    encode (.page stream mask) =
      mask.btn.toNat * 64 + mask.pot.toNat * 32 + mask.menu.toNat * 16 + (streamBit stream).toNat * 8 + 4)

/-! ### The step -/

/-- A cycle that delivers a legal word runs the decoded operation on the state with that cycle taken
(00_scope.md R5, 20_memory.md R52, 30_encoding.md R74; decision D1; the list of cycles is assumption 4). -/
def Obligations.StepRunsTheDecodedOperation : Prop :=
  ∀ (s : State) (w : Nat) (rest : List InPorts) (i : Instr),
    s.inputs = { rst := false, evValid := true, evWord := w } :: rest → decode s.cfg.tsWidth w = .instr i →
    step s = exec i { s with inputs := rest }

/-- The opcode-table word that the decoder reads as an operation is the operation the very next cycle runs, when the
host delivers it there: at the width of the state, and so for the table's own reading in a build of its width
(30_encoding.md R70, R74, 20_memory.md R52, R54; decisions D1, D2, D3, D19; assumptions 4, 12). -/
def Obligations.DeliveredTableWordRunsItsOperation : Prop :=
  ∀ (s : State) (nbits w : Nat) (i : Instr),
    (decode s.cfg.tsWidth (tableWord nbits w) = .instr i →
      step (s.withFetchWord nbits w) = exec i { s with inputs := s.inputs.tail }) ∧
    (s.cfg.tsWidth = 64 → decodeTableWord nbits w = some i →
      step (s.withFetchWord nbits w) = exec i { s with inputs := s.inputs.tail })

/-- An illegal word changes no register and is reported; the next event is processed normally
(42_control_events.md R164, 60_exceptions.md R183; decision D16; going on is assumption 7). -/
def Obligations.IllegalWordIsReportedAndChangesNothing : Prop :=
  ∀ (s : State) (w : Nat) (rest : List InPorts) (why : IllegalWord),
    s.inputs = { rst := false, evValid := true, evWord := w } :: rest → decode s.cfg.tsWidth w = .illegal why →
    ∃ u, step s = .next u ∧ u.regs = s.regs ∧ u.cfg = s.cfg ∧ u.inputs = rest ∧
      u.outPorts = { outValid := 1, outWord := 3, dbgTr := 0, dbgDet := 0, dbgReject := 0 }

/-- In a cycle without an event, listed or beyond the end of the list, no register changes and every output is 0
(20_memory.md R52, 60_exceptions.md R191; decision D1; cycles beyond the list are assumption 4). -/
def Obligations.IdleCycleHoldsTheRegisters : Prop :=
  ∀ s : State,
    (s.inputs = [] ∨ ∃ w rest, s.inputs = { rst := false, evValid := false, evWord := w } :: rest) →
    ∃ u, step s = .next u ∧ u.regs = s.regs ∧ u.cfg = s.cfg ∧ u.inputs = s.inputs.tail ∧
      u.outPorts = { outValid := 0, outWord := 0, dbgTr := 0, dbgDet := 0, dbgReject := 0 }

/-- A reset cycle gives every register its reset value, whatever `ev_valid` and `ev_word` are, changes no parameter
and has no output (70_reset_and_hazards.md R200, 10_state.md R34; decision D4). -/
def Obligations.ResetCycleResetsEveryRegister : Prop :=
  ∀ (s : State) (valid : Bool) (w : Nat) (rest : List InPorts),
    s.inputs = { rst := true, evValid := valid, evWord := w } :: rest →
    ∃ u, step s = .next u ∧ u.cfg = s.cfg ∧ u.inputs = rest ∧
      u.regs = { levelA := 0, levelB := 0, lastState := 0, armed := .zero, lastDetentTs := none,
                 lastAcc := { menu := none, pot := none, btn := none },
                 lastRaw := { menu := none, pot := none, btn := none }, rotStream := .menu } ∧
      u.outPorts = { outValid := 0, outWord := 0, dbgTr := 0, dbgDet := 0, dbgReject := 0 }

/-- The reset state on the status outputs: all bits 0 (10_state.md R34, R32; decisions D4, D24), and the width
and the intervals at the values the spec takes (00_scope.md R6; decisions D3, D14). -/
def Obligations.ResetStateIsAllZeroOnTheStatusPorts : Prop :=
  State.reset.status =
    { levelA := 0, levelB := 0, lastState := 0, armed := 0, lastDetentTs := { valid := 0, value := 0 },
      lastAcc := { menu := { valid := 0, value := 0 }, pot := { valid := 0, value := 0 },
                   btn := { valid := 0, value := 0 } },
      lastRaw := { menu := { valid := 0, value := 0 }, pot := { valid := 0, value := 0 },
                   btn := { valid := 0, value := 0 } },
      rotStream := 0 } ∧
  State.reset.cfg.tsWidth = 64 ∧ State.reset.cfg.minInterval = { menu := 15000, pot := 10000, btn := 200000 }

/-- Every cycle has a next state: no word and no state stops the block; the parameters never change, and exactly one
input cycle is taken (30_encoding.md R75, 20_memory.md R52, R59, 00_scope.md R6; decisions D14, D16). -/
def Obligations.EveryCycleHasANextState : Prop :=
  ∀ s : State, ∃ u, step s = .next u ∧ u.cfg = s.cfg ∧ u.inputs = s.inputs.tail

/-- Nothing of a step's outputs is latched: the next state, outputs included, is a function of the parameters, the
registers and the inputs (60_exceptions.md R180, 70_reset_and_hazards.md R213; decision D1). -/
def Obligations.NoOutputIsLatched : Prop :=
  ∀ s s' : State, s.cfg = s'.cfg → s.regs = s'.regs → s.inputs = s'.inputs →
    ∃ u, step s = .next u ∧ step s' = .next u

/-- The outputs of the first `n` cycles depend on no later input: "an event sees no effect of any later event"
(20_memory.md R59 (b)). -/
def Obligations.OutputsDependOnNoLaterInput : Prop :=
  ∀ (n : Nat) (s s' : State), s.cfg = s'.cfg → s.regs = s'.regs → s.inputs.take n = s'.inputs.take n →
    portTrace n s = portTrace n s'

/-! ### Invariants (10_state.md R35) -/

/-- The invariants hold in the reset state, the constraints on the parameters among them
(10_state.md R35; 00_scope.md R7; decisions D4, D14). -/
def Obligations.InvariantsHoldAtReset : Prop := Inv State.reset

/-- Every step keeps the invariants I-1, I-3, I-5 (first half) and the state form of I-6, the constraints on the
parameters and the range `0 <= t < 2^TS_W` of every timestamp register, from every state that has them
(10_state.md R35; 00_scope.md R7, R8; the state form is assumption 18, the range check assumption 1). -/
def Obligations.EveryStepKeepsTheInvariants : Prop :=
  ∀ s u : State, Inv s → step s = .next u → Inv u

/-- While the host keeps MONO, no accepted timestamp is above the last raw one of its gate, and every step keeps this
(10_state.md R35 I-5, second half; 20_memory.md R62 MONO). -/
def Obligations.EveryStepKeepsRawAtOrAfterAccepted : Prop :=
  ∀ s u : State, MonoInv s → step s = .next u → MonoInv u

/-! ### The quadrature decoder (40_quadrature_decoder.md) -/

/-- The combined state is `(level_a << 1) | level_b`, with `level_a` as bit 1 and `level_b` as bit 0; its four
values (40_quadrature_decoder.md R100). -/
def Obligations.CombinedStateOfTheLevels : Prop :=
  (∀ a b : Bit, (combined a b).toNat = 2 * a.toNat + b.toNat) ∧
  (∀ a b : Bit, (combined a b).extractLsb' 1 1 = a ∧ (combined a b).extractLsb' 0 1 = b) ∧
  combined 0 0 = 0 ∧ combined 0 1 = 1 ∧ combined 1 0 = 2 ∧ combined 1 1 = 3 ∧ Config.home = 0

/-- The transition table: four clockwise pairs, four counter-clockwise ones, which are the clockwise ones reversed, and
0 for the other eight; a valid pair changes exactly one bit (40_quadrature_decoder.md R101). -/
def Obligations.TransitionTable : Prop :=
  (tt 0 1 = .pos ∧ tt 1 3 = .pos ∧ tt 3 2 = .pos ∧ tt 2 0 = .pos) ∧
  (tt 0 2 = .neg ∧ tt 2 3 = .neg ∧ tt 3 1 = .neg ∧ tt 1 0 = .neg) ∧
  (∀ p : Combined, tt p p = .zero) ∧
  (tt 0 3 = .zero ∧ tt 3 0 = .zero ∧ tt 1 2 = .zero ∧ tt 2 1 = .zero) ∧
  (∀ p n : Combined, tt p n = .neg ↔ tt n p = .pos) ∧
  (∀ p n : Combined, tt p n ≠ .zero ↔ p ^^^ n = 1 ∨ p ^^^ n = 2)

/-- `EDGE_A` and `EDGE_B` complete in every state, and do what the edge procedure says: the levels, `last_state`,
`armed`, the strobes, and, when a click completes, `last_detent_ts` and the gate that `rot_stream` selects; nothing
else changes (40_quadrature_decoder.md R103, R104, R105; it includes R106 to R109 and the gate procedure
41_debounce_speed.md R133 as R103 calls it, with the decisions D5, D6, D9, D11, D12, D13 and, for the elapsed time
modulo `2^TS_W`, D3; assumptions 8, 10). -/
def Obligations.EdgeEventsRunTheEdgeProcedure : Prop :=
  ∀ (level : Bit) (ts : Nat) (s : State),
    (∃ u, exec (.edgeA level ts) s = .next u ∧ EdgeSpec .a level ts s u) ∧
    (∃ u, exec (.edgeB level ts) s = .next u ∧ EdgeSpec .b level ts s u)

/-- Each stored level is written only by its own pin's edge event, with the event's level, and every edge event
recomputes the combined state from the two (10_state.md R21; 40_quadrature_decoder.md R104). -/
def Obligations.LevelsAreWrittenByTheirOwnPin : Prop :=
  ∀ (i : Instr) (s : State), ∃ u, exec i s = .next u ∧
    (u.regs.levelA ≠ s.regs.levelA → ∃ level ts, i = .edgeA level ts) ∧
    (u.regs.levelB ≠ s.regs.levelB → ∃ level ts, i = .edgeB level ts) ∧
    (∀ level ts, i = .edgeA level ts →
      u.regs.levelA = level ∧ u.regs.lastState = combined level s.regs.levelB) ∧
    (∀ level ts, i = .edgeB level ts →
      u.regs.levelB = level ∧ u.regs.lastState = combined s.regs.levelA level)

/-- An edge event that repeats the stored level of its pin changes no register, forwards nothing and shows `0b10` on
`dbg_tr` (40_quadrature_decoder.md R102, R105, R106; 60_exceptions.md R181). -/
def Obligations.SameStateEdgeChangesNoRegister : Prop :=
  ∀ (pin : Pin) (ts : Nat) (s : State), Inv s →
    exec (edgeInstr pin (s.regs.level pin) ts) s =
      .next { s with out := .none, strobes := { tr := 0b10, det := 0b00, reject := 0 } }

/-- The only detent `EDGE_A` can complete is the clockwise one, on `2 -> 0`, and the only one `EDGE_B` can complete is
the counter-clockwise one, on `1 -> 0`; each exactly when `armed` has that direction
(40_quadrature_decoder.md R110, R111, corner cases; decision D5). -/
def Obligations.EachPinCompletesOneDirection : Prop :=
  ∀ (level : Bit) (ts : Nat) (s : State), s.regs.levelsAgree →
    (∃ u, exec (.edgeA level ts) s = .next u ∧ (u.strobes.det = 0b00 ∨ u.strobes.det = 0b01) ∧
      (u.strobes.det = 0b01 ↔
        level = 0 ∧ s.regs.levelA = 1 ∧ s.regs.levelB = 0 ∧ s.regs.armed = .pos)) ∧
    (∃ u, exec (.edgeB level ts) s = .next u ∧ (u.strobes.det = 0b00 ∨ u.strobes.det = 0b11) ∧
      (u.strobes.det = 0b11 ↔
        level = 0 ∧ s.regs.levelA = 0 ∧ s.regs.levelB = 1 ∧ s.regs.armed = .neg))

/-- A detent is produced only by an edge event, only by a valid transition, and only into home
(40_quadrature_decoder.md R112 P-1); `armed` is then 0 (R106; decision D5). -/
def Obligations.DetentsArriveAtHome : Prop :=
  ∀ (i : Instr) (s u : State), exec i s = .next u → u.strobes.det ≠ 0 →
    (∃ pin level ts, i = edgeInstr pin level ts) ∧ u.regs.lastState = 0 ∧ u.regs.armed = .zero ∧
    (u.strobes.tr = 0b01 ∨ u.strobes.tr = 0b11) ∧ u.strobes.tr = u.strobes.det

/-- Between resets an edge event advances or keeps `last_detent_ts` and nothing else does: it is written with the
event's timestamp exactly when a detent is produced, before and regardless of the gate's verdict
(10_state.md R24, R35 I-6; 40_quadrature_decoder.md R108; decision D6). -/
def Obligations.LastDetentTimestampFollowsTheDetents : Prop :=
  ∀ s : State, s.nextInput.rst = false → ∃ u, step s = .next u ∧
    (u.strobes.det = 0 → u.regs.lastDetentTs = s.regs.lastDetentTs) ∧
    (u.strobes.det ≠ 0 → ∃ pin level ts,
      s.nextInput.delivered s.cfg.tsWidth = some (edgeInstr pin level ts) ∧ u.regs.lastDetentTs = some ts)

/-- From rest at home, `0→1→3→2→0` produces exactly one detent, clockwise, at its last event; `0→2→3→1→0` one
counter-clockwise; `0→1→0` none; and the bounce `0→1→3→2→3→2→0` one clockwise, whatever the timestamps, the stream and
the gates are (40_quadrature_decoder.md R112 P-3, P-6; decision D5). -/
def Obligations.TheDocumentsSequences : Prop :=
  ∀ (s : State) (t1 t2 t3 t4 t5 t6 : Nat), AtHome s →
    detents (execTrace [.edgeB 1 t1, .edgeA 1 t2, .edgeB 0 t3, .edgeA 0 t4] s) = [0, 0, 0, 0b01] ∧
    detents (execTrace [.edgeA 1 t1, .edgeB 1 t2, .edgeA 0 t3, .edgeB 0 t4] s) = [0, 0, 0, 0b11] ∧
    detents (execTrace [.edgeB 1 t1, .edgeB 0 t2] s) = [0, 0] ∧
    detents (execTrace [.edgeB 1 t1, .edgeA 1 t2, .edgeB 0 t3, .edgeB 1 t4, .edgeB 0 t5, .edgeA 0 t6] s) =
      [0, 0, 0, 0, 0, 0b01]

/-- The counting decoder at reset agrees with the machine at reset (40_quadrature_decoder.md R112 P-2; decisions D4,
D5). -/
def Obligations.TheCountStartsWithReset : Prop := CountsWith Regs.reset CountState.reset

/-- Every step keeps the agreement of the machine with a decoder that counts net quarter-steps since home, from every
state and count that agree, and the two report the same detent in the cycle (40_quadrature_decoder.md R106, R107, R112
P-2; decision D5). -/
def Obligations.EveryStepKeepsTheCount : Prop :=
  ∀ (s u : State) (c : CountState), CountsWith s.regs c → step s = .next u →
    CountsWith u.regs (c.cycle s.cfg.tsWidth s.nextInput).1 ∧
    some u.strobes.det = (c.cycle s.cfg.tsWidth s.nextInput).2

/-- The decoder and a decoder that counts four net quarter-steps since home report the same detents on every input
from reset: a detent exactly on arrival with the sum +4 or -4, none with the sum 0, and no other sum ever arrives
(40_quadrature_decoder.md R112 P-2; decision D5). -/
def Obligations.ArmedDecoderCountsFourQuarterSteps : Prop :=
  ∀ (s : State) (cs : List InPorts), s.regs = Regs.reset →
    (detents (portTrace cs.length (s.withInputs cs))).map some = countTrace s.cfg.tsWidth cs CountState.reset

/-- Same-state edge events are invisible: one of them, anywhere in a run from a state with the invariants, changes
neither the records the host receives nor the final registers (40_quadrature_decoder.md R112 P-4). -/
def Obligations.SameStateEventsCanBeDeleted : Prop :=
  ∀ (s m : State) (before after : List InPorts) (c : InPorts) (pin : Pin) (ts : Nat), Inv s →
    Sys2Proof.core.run before.length (s.withInputs before) = .next m →
    c.delivered s.cfg.tsWidth = some (edgeInstr pin (m.regs.level pin) ts) →
    forwarded (portTrace (before.length + 1 + after.length) (s.withInputs (before ++ c :: after))) =
      forwarded (portTrace (before.length + after.length) (s.withInputs (before ++ after))) ∧
    ∃ u v : State,
      Sys2Proof.core.run (before.length + 1 + after.length) (s.withInputs (before ++ c :: after)) = .next u ∧
      Sys2Proof.core.run (before.length + after.length) (s.withInputs (before ++ after)) = .next v ∧
      u.regs = v.regs

/-! ### The gates and the speed (41_debounce_speed.md) -/

/-- `Elapsed(a, t)` is `(t - a) mod 2^TS_W` at every width: a natural below `2^TS_W`, the plain difference while `t` is
not before `a` and less than a lap after it, and `2^TS_W - (a - t)` when `t` is before `a`
(41_debounce_speed.md R132, R144; decision D3). -/
def Obligations.ElapsedIsTheModularDifference : Prop :=
  ∀ (tsWidth : Nat) (a t : Nat),
    elapsed tsWidth a t = elapsedNat tsWidth a t ∧ elapsed tsWidth a t < 2 ^ tsWidth ∧
    (a ≤ t → t - a < 2 ^ tsWidth → elapsed tsWidth a t = t - a) ∧
    (t < a → a - t < 2 ^ tsWidth → elapsed tsWidth a t = 2 ^ tsWidth - (a - t))

/-- A wrapping counter of `TS_W` bits, in a build of any width: when the true times of the last accepted event of a gate
and of the next raw event are `a <= t`, and the host delivers them modulo `2^TS_W`, the gate judges by the true time
between them reduced modulo `2^TS_W`, and an accepted detent reports its speed from that. The time is right across a
wrap, when it is less than a lap, and shortened by a multiple of the lap otherwise
(70_reset_and_hazards.md R207; 41_debounce_speed.md R132; decisions D3, D12, D13; assumption 8). The first part is a
button edge, the second a detent. -/
def Obligations.WrappingTimestampsKeepTheElapsedTime : Prop :=
  (∀ (level : Bit) (a t : Nat) (s : State), a ≤ t → s.regs.lastAcc.btn = some (a % 2 ^ s.cfg.tsWidth) →
    ∃ u, exec (.btnEdge level (t % 2 ^ s.cfg.tsWidth)) s = .next u ∧
      (u.strobes.reject = 1 ↔ (t - a) % 2 ^ s.cfg.tsWidth < s.cfg.minInterval.btn)) ∧
  (∀ (pin : Pin) (level : Bit) (a t : Nat) (s : State), a ≤ t → CompletesClick pin level s.regs →
    s.regs.lastAcc.get (streamGate s.regs.rotStream) = some (a % 2 ^ s.cfg.tsWidth) →
    ∃ u, exec (edgeInstr pin level (t % 2 ^ s.cfg.tsWidth)) s = .next u ∧
      (u.strobes.reject = 1 ↔
        (t - a) % 2 ^ s.cfg.tsWidth < s.cfg.minInterval.get (streamGate s.regs.rotStream)) ∧
      (u.strobes.reject = 0 → ∃ speed change,
        u.out = .rot (dirOf s.regs.armed) s.regs.rotStream speed change (t % 2 ^ s.cfg.tsWidth) ∧
        speed.toNat = if (t - a) % 2 ^ s.cfg.tsWidth = 0 then 1000
          else min (1000000 / ((t - a) % 2 ^ s.cfg.tsWidth)) 1000))

/-- `BTN_EDGE` completes in every state: its word, the gate procedure on gate `BTN`, the record `BTN(level, ts)` on
accept and `dbg_reject` on reject, and nothing of the decoder or of the other gates
(41_debounce_speed.md R142, with R133 to R136 as it calls them; the elapsed time modulo `2^TS_W` in every state is
decision D3, assumption 8). -/
def Obligations.ButtonEdgeRunsTheButtonGate : Prop :=
  ∀ (level : Bit) (ts : Nat) (s : State),
    encode (.btnEdge level ts) = (ts <<< 8) ||| (level.toNat <<< 3) ||| 3 ∧
    ∃ u, exec (.btnEdge level ts) s = .next u ∧ GateSpec (.button level) ts s u ∧
      u.cfg = s.cfg ∧ u.inputs = s.inputs ∧
      u.regs = { s.regs with lastAcc := u.regs.lastAcc, lastRaw := u.regs.lastRaw } ∧
      u.regs.lastAcc.menu = s.regs.lastAcc.menu ∧ u.regs.lastAcc.pot = s.regs.lastAcc.pot ∧
      u.strobes.tr = 0 ∧ u.strobes.det = 0

/-- Every raw event writes `last_raw` of its gate, accepted or rejected, and on a reject that is the gate's only write;
it is rejected exactly when a prior accepted timestamp exists and the elapsed time since it is strictly below the
interval of the gate. The first part is a button edge, the second a detent, whose gate `rot_stream` selects
(41_debounce_speed.md R134, R135; the elapsed time modulo `2^TS_W` in every state is decision D3, assumption 8). -/
def Obligations.RawEventsAreJudgedAgainstTheLastAccepted : Prop :=
  (∀ (level : Bit) (ts : Nat) (s : State), ∃ u, exec (.btnEdge level ts) s = .next u ∧
    u.regs.lastRaw = s.regs.lastRaw.set .btn (some ts) ∧
    (u.strobes.reject = 1 → u.regs.lastAcc = s.regs.lastAcc) ∧
    (u.strobes.reject = 1 ↔
      ∃ a, s.regs.lastAcc.btn = some a ∧ elapsedNat s.cfg.tsWidth a ts < s.cfg.minInterval.btn)) ∧
  (∀ (pin : Pin) (level : Bit) (ts : Nat) (s : State), ∃ u, exec (edgeInstr pin level ts) s = .next u ∧
    (u.strobes.det ≠ 0 →
      u.regs.lastRaw = s.regs.lastRaw.set (streamGate s.regs.rotStream) (some ts) ∧
      (u.strobes.reject = 1 → u.regs.lastAcc = s.regs.lastAcc) ∧
      (u.strobes.reject = 1 ↔
        ∃ a, s.regs.lastAcc.get (streamGate s.regs.rotStream) = some a ∧
          elapsedNat s.cfg.tsWidth a ts < s.cfg.minInterval.get (streamGate s.regs.rotStream))))

/-- `last_raw` and `last_acc` of a gate are equal immediately after an accept; immediately after a reject they differ,
except when the rejected event carried the very timestamp of the accepted one (41_debounce_speed.md R145 G-6). -/
def Obligations.RawEqualsAcceptedAfterAnAccept : Prop :=
  (∀ (level : Bit) (ts : Nat) (s : State), ∃ u, exec (.btnEdge level ts) s = .next u ∧
    (u.strobes.reject = 0 → u.regs.lastRaw.btn = u.regs.lastAcc.btn) ∧
    (u.strobes.reject = 1 → (u.regs.lastRaw.btn = u.regs.lastAcc.btn ↔ s.regs.lastAcc.btn = some ts))) ∧
  (∀ (pin : Pin) (level : Bit) (ts : Nat) (s : State), CompletesClick pin level s.regs →
    ∃ u, exec (edgeInstr pin level ts) s = .next u ∧
      (u.strobes.reject = 0 → u.regs.lastRaw.get (streamGate s.regs.rotStream) =
        u.regs.lastAcc.get (streamGate s.regs.rotStream)) ∧
      (u.strobes.reject = 1 → (u.regs.lastRaw.get (streamGate s.regs.rotStream) =
        u.regs.lastAcc.get (streamGate s.regs.rotStream) ↔
          s.regs.lastAcc.get (streamGate s.regs.rotStream) = some ts)))

/-- A rejected raw event writes `last_raw` of its gate and nothing else, and forwards nothing; for a rejected detent
the decoder's own writes of the same step still take effect (41_debounce_speed.md R143). When a click completes, what
`armed` and `last_detent_ts` become and where the gate comes from are 40_quadrature_decoder.md R106 to R109, decisions
D5, D6 and D9 (assumption 10). -/
def Obligations.RejectedEventKeepsTheDecodersWrites : Prop :=
  ∀ (i : Instr) (s u : State), exec i s = .next u → u.strobes.reject = 1 →
    u.out = .none ∧
    ((∃ level ts, i = .btnEdge level ts ∧
        u.regs = { s.regs with lastRaw := { s.regs.lastRaw with btn := some ts } }) ∨
     (∃ pin level ts, i = edgeInstr pin level ts ∧ CompletesClick pin level s.regs ∧
        u.regs =
          { s.regs with
            levelA := if pin = .a then level else s.regs.levelA
            levelB := if pin = .b then level else s.regs.levelB
            lastState := 0
            armed := .zero
            lastDetentTs := some ts
            lastRaw := s.regs.lastRaw.set (streamGate s.regs.rotStream) (some ts) }))

/-- The record of an accepted detent: the stream `rot_stream` names, the speed of 41_debounce_speed.md R137 to R139, the
tier of R140 and the event's timestamp; the direction is the decoder's, and the gate records the event as its last
accepted one (41_debounce_speed.md R136 to R141; decisions D3, D11, D12, D13, D15, D18, D27; the elapsed time modulo
`2^TS_W` in every state is assumption 8). -/
def Obligations.RotationRecordIsTheMeasuredSpeed : Prop :=
  ∀ (i : Instr) (s u : State) (dir : Dir) (stream : Stream) (speed : BitVec 10) (change : BitVec 7) (ts : Nat),
    exec i s = .next u → u.out = .rot dir stream speed change ts →
    (∃ pin level, i = edgeInstr pin level ts) ∧ stream = s.regs.rotStream ∧
    speed.toNat = specSpeed s.cfg.tsWidth (s.regs.lastAcc.get (streamGate stream)) ts ∧
    change = (if s.cfg.speedThreshold ≤ speed.toNat then 100 else 10) ∧
    u.strobes.det = dir.code ∧ u.strobes.reject = 0 ∧
    u.regs.lastAcc = s.regs.lastAcc.set (streamGate stream) (some ts)

/-- An accepted detent with a prior accepted one on its gate never reports a speed above
`min(1000, floor(1 000 000 / MIN_INTERVAL[g]))`, when the interval is at least 1
(41_debounce_speed.md R145 G-3; 70_reset_and_hazards.md R210). -/
def Obligations.ReportedSpeedHasACeiling : Prop :=
  ∀ (i : Instr) (s u : State) (dir : Dir) (stream : Stream) (speed : BitVec 10) (change : BitVec 7) (ts : Nat),
    exec i s = .next u → u.out = .rot dir stream speed change ts →
    1 ≤ s.cfg.minInterval.get (streamGate stream) →
    speed.toNat ≤ min 1000 (1000000 / s.cfg.minInterval.get (streamGate stream))

/-- Truncation never decides the tier: between 1 and 1000, the threshold is reached exactly when threshold times
interval is at most 1 000 000; at 0 every accepted detent is fast and above 1000 none is
(41_debounce_speed.md R137, R138, R140; decisions D3, D12, D13; the elapsed time modulo `2^TS_W` in every state is
assumption 8). -/
def Obligations.TierDoesNotDependOnTruncation : Prop :=
  ∀ (i : Instr) (s u : State) (dir : Dir) (stream : Stream) (speed : BitVec 10) (change : BitVec 7) (ts : Nat),
    exec i s = .next u → u.out = .rot dir stream speed change ts →
    (s.cfg.speedThreshold = 0 → change = 100) ∧
    (1000 < s.cfg.speedThreshold → change = 10) ∧
    (1 ≤ s.cfg.speedThreshold → s.cfg.speedThreshold ≤ 1000 →
      ∀ a, s.regs.lastAcc.get (streamGate stream) = some a →
        (change = 100 ↔ s.cfg.speedThreshold * elapsedNat s.cfg.tsWidth a ts ≤ 1000000))

/-- The first detent of a cleared gate is accepted with speed 0, and with the slow change for every threshold of at
least 1 (41_debounce_speed.md R136, R139; 70_reset_and_hazards.md R209; decision D11). -/
def Obligations.FirstDetentOfAClearedGateIsSlow : Prop :=
  ∀ (pin : Pin) (level : Bit) (ts : Nat) (s : State),
    CompletesClick pin level s.regs → s.regs.lastAcc.get (streamGate s.regs.rotStream) = none →
    1 ≤ s.cfg.speedThreshold →
    ∃ u, exec (edgeInstr pin level ts) s = .next u ∧
      u.out = .rot (dirOf s.regs.armed) s.regs.rotStream 0 10 ts

/-- In a run with no reset and no clearing of gate `g`, from any state, two successive events that `g` forwards are at
least `MIN_INTERVAL[g]` apart, by the elapsed time modulo `2^TS_W` (41_debounce_speed.md R145 G-2; decision D3,
assumption 8). -/
def Obligations.ForwardedEventsAreSpaced : Prop :=
  ∀ (g : Gate) (n : Nat) (s : State), (∀ c ∈ s.inputs, c.rst = false ∧ c.clears s.cfg.tsWidth g = false) →
    ((forwarded (portTrace n s)).filterMap (OutRec.tsFrom g)).IsChain
      fun a t => s.cfg.minInterval.get g ≤ elapsedNat s.cfg.tsWidth a t

/-- An event of one gate reads and writes only that gate's two registers: a button verdict depends on no rotation gate
and no decoder register, a rotation verdict on no other gate, and the other gates are left alone
(10_state.md R25; 41_debounce_speed.md R145 G-5). -/
def Obligations.GatesAreIndependent : Prop :=
  (∀ (level : Bit) (ts : Nat) (s s' : State), s.cfg = s'.cfg →
    s.regs.lastAcc.btn = s'.regs.lastAcc.btn →
    ∃ u u', exec (.btnEdge level ts) s = .next u ∧ exec (.btnEdge level ts) s' = .next u' ∧
      u.outPorts = u'.outPorts ∧ u.regs.lastAcc.btn = u'.regs.lastAcc.btn ∧
      u.regs.lastRaw.btn = u'.regs.lastRaw.btn ∧
      (∀ g, g ≠ .btn →
        u.regs.lastAcc.get g = s.regs.lastAcc.get g ∧ u.regs.lastRaw.get g = s.regs.lastRaw.get g)) ∧
  (∀ (pin : Pin) (level : Bit) (ts : Nat) (s s' : State), s.cfg = s'.cfg →
    s.regs.levelA = s'.regs.levelA → s.regs.levelB = s'.regs.levelB → s.regs.lastState = s'.regs.lastState →
    s.regs.armed = s'.regs.armed → s.regs.rotStream = s'.regs.rotStream →
    s.regs.lastAcc.get (streamGate s.regs.rotStream) = s'.regs.lastAcc.get (streamGate s.regs.rotStream) →
    ∃ u u', exec (edgeInstr pin level ts) s = .next u ∧ exec (edgeInstr pin level ts) s' = .next u' ∧
      u.outPorts = u'.outPorts ∧
      u.regs.lastAcc.get (streamGate s.regs.rotStream) = u'.regs.lastAcc.get (streamGate s.regs.rotStream) ∧
      (∀ g, g ≠ streamGate s.regs.rotStream →
        u.regs.lastAcc.get g = s.regs.lastAcc.get g ∧ u.regs.lastRaw.get g = s.regs.lastRaw.get g))

/-- `last_raw` and `last_detent_ts` are read by no rule: two states that differ in them alone show the same outputs
for ever (10_state.md R24, R27, R33; decisions D6, D8). -/
def Obligations.RawAndDetentTimestampsAreNeverRead : Prop :=
  ∀ (n : Nat) (s : State) (ts : Option Nat) (raw : PerGate (Option Nat)),
    portTrace n { s with regs := { s.regs with lastDetentTs := ts, lastRaw := raw } } = portTrace n s

/-! ### The control events (42_control_events.md) -/

/-- `NOP` completes in every state: no register is written, nothing is forwarded, all strobes are 0
(42_control_events.md R160; decision D17). -/
def Obligations.NopChangesNoRegister : Prop :=
  ∀ s : State, exec .nop s = .next { s with out := .none, strobes := { tr := 0, det := 0, reject := 0 } }

/-- `PAGE` completes in every state: the stream is selected and `last_acc` of the named gates cleared, in one step; the
decoder, `last_detent_ts` and every `last_raw` are unchanged (42_control_events.md R161, R162; decisions D6, D8, D9,
D10, D26). -/
def Obligations.PageSelectsTheStreamAndClearsTheNamedGates : Prop :=
  ∀ (stream : Stream) (mask : PerGate Bool) (s : State),
    exec (.page stream mask) s =
      .next { s with
        regs := { s.regs with
          rotStream := stream
          lastAcc := { menu := if mask.menu then none else s.regs.lastAcc.menu
                       pot  := if mask.pot then none else s.regs.lastAcc.pot
                       btn  := if mask.btn then none else s.regs.lastAcc.btn } }
        out := .none
        strobes := { tr := 0, det := 0, reject := 0 } }

/-- A `PAGE` event as the host should send it gives the page entered its stream and a gate with no accepted event, so
no stale interval is left; the recommended event is one of them and leaves the button gate alone
(42_control_events.md R163; 70_reset_and_hazards.md R205; decisions D10, D21). -/
def Obligations.PageDutyLeavesNoStaleInterval : Prop :=
  ∀ (entered : Page) (s : State),
    (∀ i, MeetsPageDuty entered i → ∃ u, exec i s = .next u ∧ u.regs.rotStream = entered.stream ∧
      u.regs.lastAcc.get (streamGate u.regs.rotStream) = none) ∧
    MeetsPageDuty entered (recommendedPage entered) ∧
    (∃ u, exec (recommendedPage entered) s = .next u ∧ u.regs.lastAcc.btn = s.regs.lastAcc.btn)

/-- Which event may write which register, for every operation, for an illegal word, for an idle cycle and for reset
(10_state.md R36). -/
def Obligations.WritersOfTheRegisters : Prop :=
  ∀ s : State, ∃ u, step s = .next u ∧
    (∀ level ts, s.nextAction = .event (.edgeA level ts) →
      u.regs.levelB = s.regs.levelB ∧ u.regs.rotStream = s.regs.rotStream ∧
      (u.strobes.det = 0 → u.regs.lastDetentTs = s.regs.lastDetentTs ∧ u.regs.lastRaw = s.regs.lastRaw ∧
        u.regs.lastAcc = s.regs.lastAcc) ∧
      (u.strobes.reject = 1 → u.regs.lastAcc = s.regs.lastAcc) ∧
      (∀ g, g ≠ streamGate s.regs.rotStream →
        u.regs.lastRaw.get g = s.regs.lastRaw.get g ∧ u.regs.lastAcc.get g = s.regs.lastAcc.get g)) ∧
    (∀ level ts, s.nextAction = .event (.edgeB level ts) →
      u.regs.levelA = s.regs.levelA ∧ u.regs.rotStream = s.regs.rotStream ∧
      (u.strobes.det = 0 → u.regs.lastDetentTs = s.regs.lastDetentTs ∧ u.regs.lastRaw = s.regs.lastRaw ∧
        u.regs.lastAcc = s.regs.lastAcc) ∧
      (u.strobes.reject = 1 → u.regs.lastAcc = s.regs.lastAcc) ∧
      (∀ g, g ≠ streamGate s.regs.rotStream →
        u.regs.lastRaw.get g = s.regs.lastRaw.get g ∧ u.regs.lastAcc.get g = s.regs.lastAcc.get g)) ∧
    (∀ level ts, s.nextAction = .event (.btnEdge level ts) →
      u.regs = { s.regs with
        lastRaw := { s.regs.lastRaw with btn := u.regs.lastRaw.btn }
        lastAcc := { s.regs.lastAcc with btn := u.regs.lastAcc.btn } } ∧
      (u.strobes.reject = 1 → u.regs.lastAcc = s.regs.lastAcc)) ∧
    (∀ stream mask, s.nextAction = .event (.page stream mask) →
      u.regs = { s.regs with rotStream := u.regs.rotStream, lastAcc := u.regs.lastAcc } ∧
      (∀ g, u.regs.lastAcc.get g = if mask.get g then none else s.regs.lastAcc.get g)) ∧
    (s.nextAction = .event .nop → u.regs = s.regs) ∧
    (∀ why, s.nextAction = .illegal why → u.regs = s.regs) ∧
    (s.nextAction = .idle → u.regs = s.regs) ∧
    (s.nextAction = .reset → u.regs = Regs.reset)

/-- Ticks and idle cycles, anywhere in a run, change neither the records the host receives nor the final registers:
nothing in the block happens because time passed (42_control_events.md R160; 60_exceptions.md R189, R191; decision
D17). -/
def Obligations.NopsAndIdleCyclesCanBeDeleted : Prop :=
  ∀ (s : State) (before after : List InPorts) (c : InPorts),
    c.action s.cfg.tsWidth = .event .nop ∨ c.action s.cfg.tsWidth = .idle →
    forwarded (portTrace (before.length + 1 + after.length) (s.withInputs (before ++ c :: after))) =
      forwarded (portTrace (before.length + after.length) (s.withInputs (before ++ after))) ∧
    ∃ u v : State,
      Sys2Proof.core.run (before.length + 1 + after.length) (s.withInputs (before ++ c :: after)) = .next u ∧
      Sys2Proof.core.run (before.length + after.length) (s.withInputs (before ++ after)) = .next v ∧
      u.regs = v.regs

/-! ### Outputs -/

/-- The abnormal inputs exclude each other: a bounce is never also a rejection, and an illegal word is neither; a
rejection or a bounce forwards nothing (60_exceptions.md R180, R185). -/
def Obligations.AbnormalReportsExcludeEachOther : Prop :=
  ∀ s : State, ∃ u, step s = .next u ∧
    (u.strobes.tr = 0b10 → u.strobes.reject = 0 ∧ u.strobes.det = 0 ∧ u.out = .none) ∧
    (u.strobes.reject = 1 → u.strobes.tr ≠ 0b10 ∧ u.out = .none) ∧
    (u.out = .illegal → u.strobes = { tr := 0, det := 0, reject := 0 })

/-- The fields of the output word of each kind, at every width, and `out_valid`; the word has `OW` bits
(30_encoding.md R77; decisions D3, D18, D27). -/
def Obligations.OutputWordFields : Prop :=
  ∀ tsWidth : Nat,
    (∀ (dir : Dir) (stream : Stream) (speed : BitVec 10) (change : BitVec 7) (ts : Nat), ts < 2 ^ tsWidth →
      let w := (OutRec.rot dir stream speed change ts).word tsWidth
      slice w 0 2 = 0b01 ∧ slice w 2 2 = (if dir = .cw then 0b01 else 0b11) ∧
      slice w 4 1 = (if stream = .menu then 0 else 1) ∧ slice w 5 1 = 0 ∧
      slice w 6 10 = speed.toNat ∧ slice w 16 7 = change.toNat ∧ slice w 23 1 = 0 ∧
      slice w 24 tsWidth = ts ∧ w < 2 ^ (tsWidth + 24) ∧ (OutRec.rot dir stream speed change ts).valid = 1) ∧
    (∀ (level : Bit) (ts : Nat), ts < 2 ^ tsWidth →
      let w := (OutRec.btn level ts).word tsWidth
      slice w 0 2 = 0b10 ∧ slice w 2 3 = 0 ∧ slice w 5 1 = level.toNat ∧ slice w 6 18 = 0 ∧
      slice w 24 tsWidth = ts ∧ w < 2 ^ (tsWidth + 24) ∧ (OutRec.btn level ts).valid = 1) ∧
    OutRec.illegal.word tsWidth = 3 ∧ OutRec.illegal.valid = 1 ∧ OutRec.none.word tsWidth = 0 ∧ OutRec.none.valid = 0

/-- Every record a cycle presents is one the spec allows: a speed of at most 1000 and a change of 10 or 100, from every
state (30_encoding.md R77; 41_debounce_speed.md R137, R140). -/
def Obligations.EveryRotationRecordIsLegal : Prop :=
  ∀ s : State, ∃ u, step s = .next u ∧
    ∀ dir stream speed change ts, u.out = .rot dir stream speed change ts →
      speed.toNat ≤ 1000 ∧ (change = 10 ∨ change = 100)

/-- The status outputs show every register: equal status outputs of one build mean equal registers, when the timestamps
are below `2^TS_W`; `armed` never shows `0b10`, and an invalid timestamp shows the value 0
(10_state.md R32, R35 I-4; 00_scope.md R8, R10; decisions D18, D24). -/
def Obligations.StatusPortsShowEveryRegister : Prop :=
  (∀ s s' : State, s.cfg = s'.cfg → s.regs.fit s.cfg.tsWidth → s'.regs.fit s'.cfg.tsWidth →
    s.status = s'.status → s.regs = s'.regs) ∧
  (∀ s : State, s.status.armed ≠ 0b10) ∧
  (∀ tsWidth : Nat, tsPort tsWidth none = { valid := 0, value := 0 }) ∧
  (∀ (tsWidth : Nat) (v : Nat), v < 2 ^ tsWidth → tsPort tsWidth (some v) = { valid := 1, value := v })

/-! ### The assembler (30_encoding.md R79, R80) -/

/-- `STEP_TO n, ts` expands to the one edge event that takes the combined state to `n` by a valid transition
(30_encoding.md R80; decision D2). -/
def Obligations.StepToReachesItsTarget : Prop :=
  ∀ (n ts : Nat) (s : State), s.regs.levelsAgree →
    (AsmLine.stepTo n ts).wf s.cfg.tsWidth s.regs.lastState = true →
    ∃ i u, lineEvents s.regs.lastState (.stepTo n ts) = [i] ∧ i.wf s.cfg.tsWidth = true ∧ exec i s = .next u ∧
      u.regs.lastState.toNat = n ∧ u.regs.levelsAgree ∧ u.strobes.tr ≠ 0b10

/-- `TICK`, `SELECT`, `DETENT_CW` and `DETENT_CCW` are the lines they stand for, from every tracked state and before
any rest of a source, errors included (30_encoding.md R80; decision D2). -/
def Obligations.PseudoLinesExpandToTheirLines : Prop :=
  ∀ (tsWidth : Nat) (p : Combined) (rest : List AsmLine),
    expandLines tsWidth p (.tick :: rest) = expandLines tsWidth p (.nop :: rest) ∧
    (∀ stream, expandLines tsWidth p (.select stream :: rest) = expandLines tsWidth p (.page stream [] :: rest)) ∧
    (∀ t0 dt, expandLines tsWidth p (.detentCw t0 dt :: rest) =
      expandLines tsWidth p
        (.stepTo 1 t0 :: .stepTo 3 (t0 + dt) :: .stepTo 2 (t0 + 2 * dt) :: .stepTo 0 (t0 + 3 * dt) :: rest)) ∧
    (∀ t0 dt, expandLines tsWidth p (.detentCcw t0 dt :: rest) =
      expandLines tsWidth p
        (.stepTo 2 t0 :: .stepTo 3 (t0 + dt) :: .stepTo 1 (t0 + 2 * dt) :: .stepTo 0 (t0 + 3 * dt) :: rest))

/-- A click line is legal exactly from the tracked states 0 and 3, when its last timestamp fits: from any other, one of
its steps has no expansion. Its events from state 3 (30_encoding.md R80; decisions D2, D3). -/
def Obligations.ClickLinesAreLegalFromStates0And3 : Prop :=
  ∀ (tsWidth t0 dt : Nat),
    (∀ p : Combined, (AsmLine.detentCw t0 dt).wf tsWidth p = true ↔ (p = 0 ∨ p = 3) ∧ t0 + 3 * dt < 2 ^ tsWidth) ∧
    (∀ p : Combined, (AsmLine.detentCcw t0 dt).wf tsWidth p = true ↔ (p = 0 ∨ p = 3) ∧ t0 + 3 * dt < 2 ^ tsWidth) ∧
    lineEvents 3 (.detentCw t0 dt) =
      [.edgeA 0 t0, .edgeA 1 (t0 + dt), .edgeB 0 (t0 + 2 * dt), .edgeA 0 (t0 + 3 * dt)] ∧
    lineEvents 3 (.detentCcw t0 dt) =
      [.edgeB 0 t0, .edgeB 1 (t0 + dt), .edgeA 0 (t0 + 2 * dt), .edgeB 0 (t0 + 3 * dt)]

/-- `DETENT_CW t0, dt` and `DETENT_CCW t0, dt`, from rest at home, are one click: four events, of which the last
produces the detent, with the timestamp `t0 + 3 dt` (30_encoding.md R80; 40_quadrature_decoder.md R112 P-6; decisions
D2, D5). -/
def Obligations.DetentLinesAreOneClick : Prop :=
  ∀ (t0 dt : Nat) (s : State), AtHome s →
    ((AsmLine.detentCw t0 dt).wf s.cfg.tsWidth s.regs.lastState = true →
      lineEvents s.regs.lastState (.detentCw t0 dt) =
        [.edgeB 1 t0, .edgeA 1 (t0 + dt), .edgeB 0 (t0 + 2 * dt), .edgeA 0 (t0 + 3 * dt)] ∧
      detents (execTrace (lineEvents s.regs.lastState (.detentCw t0 dt)) s) = [0, 0, 0, 0b01]) ∧
    ((AsmLine.detentCcw t0 dt).wf s.cfg.tsWidth s.regs.lastState = true →
      lineEvents s.regs.lastState (.detentCcw t0 dt) =
        [.edgeA 1 t0, .edgeB 1 (t0 + dt), .edgeA 0 (t0 + 2 * dt), .edgeB 0 (t0 + 3 * dt)] ∧
      detents (execTrace (lineEvents s.regs.lastState (.detentCcw t0 dt)) s) = [0, 0, 0, 0b11])
end

