-- ==== Sys2Proof/Laws/State.lean ====
section
/-! SUPPORT. One lemma for each field of the state and each named update of it, all true by unfolding once, so that no
later proof unfolds a record update; and the same for the registers indexed by a gate. -/

namespace Sys2Proof

section PerGate

variable {α : Type} (x : PerGate α) (v : α)

@[simp] theorem PerGate.get_set_self (g : Gate) : (x.set g v).get g = v := by cases g <;> rfl

@[simp] theorem PerGate.get_set_of_ne {g h : Gate} (hne : h ≠ g) : (x.set g v).get h = x.get h := by
  cases g <;> cases h <;> first | rfl | exact absurd rfl hne

theorem PerGate.ext_get {x y : PerGate α} (h : ∀ g, x.get g = y.get g) : x = y := by
  obtain ⟨a, b, c⟩ := x; obtain ⟨a', b', c'⟩ := y
  have h1 := h .menu; have h2 := h .pot; have h3 := h .btn
  simp only [PerGate.get] at h1 h2 h3; rw [h1, h2, h3]

end PerGate

namespace Machine

variable (s : State)

@[simp] theorem State.writeDecoder_regs_levelA (a b : Bit) (new : Combined) (x : Sgn) : (s.writeDecoder a b new x).regs.levelA = a := rfl
@[simp] theorem State.writeDecoder_regs_levelB (a b : Bit) (new : Combined) (x : Sgn) : (s.writeDecoder a b new x).regs.levelB = b := rfl
@[simp] theorem State.writeDecoder_regs_lastState (a b : Bit) (new : Combined) (x : Sgn) : (s.writeDecoder a b new x).regs.lastState = new := rfl
@[simp] theorem State.writeDecoder_regs_armed (a b : Bit) (new : Combined) (x : Sgn) : (s.writeDecoder a b new x).regs.armed = x := rfl
@[simp] theorem State.writeDecoder_regs_lastDetentTs (a b : Bit) (new : Combined) (x : Sgn) : (s.writeDecoder a b new x).regs.lastDetentTs = s.regs.lastDetentTs := rfl
@[simp] theorem State.writeDecoder_regs_lastAcc (a b : Bit) (new : Combined) (x : Sgn) : (s.writeDecoder a b new x).regs.lastAcc = s.regs.lastAcc := rfl
@[simp] theorem State.writeDecoder_regs_lastRaw (a b : Bit) (new : Combined) (x : Sgn) : (s.writeDecoder a b new x).regs.lastRaw = s.regs.lastRaw := rfl
@[simp] theorem State.writeDecoder_regs_rotStream (a b : Bit) (new : Combined) (x : Sgn) : (s.writeDecoder a b new x).regs.rotStream = s.regs.rotStream := rfl
@[simp] theorem State.writeDecoder_cfg (a b : Bit) (new : Combined) (x : Sgn) : (s.writeDecoder a b new x).cfg = s.cfg := rfl
@[simp] theorem State.writeDecoder_inputs (a b : Bit) (new : Combined) (x : Sgn) : (s.writeDecoder a b new x).inputs = s.inputs := rfl
@[simp] theorem State.writeDecoder_out (a b : Bit) (new : Combined) (x : Sgn) : (s.writeDecoder a b new x).out = s.out := rfl
@[simp] theorem State.writeDecoder_strobes (a b : Bit) (new : Combined) (x : Sgn) : (s.writeDecoder a b new x).strobes = s.strobes := rfl

@[simp] theorem State.writeLastDetentTs_regs_levelA (v : Option Nat) : (s.writeLastDetentTs v).regs.levelA = s.regs.levelA := rfl
@[simp] theorem State.writeLastDetentTs_regs_levelB (v : Option Nat) : (s.writeLastDetentTs v).regs.levelB = s.regs.levelB := rfl
@[simp] theorem State.writeLastDetentTs_regs_lastState (v : Option Nat) : (s.writeLastDetentTs v).regs.lastState = s.regs.lastState := rfl
@[simp] theorem State.writeLastDetentTs_regs_armed (v : Option Nat) : (s.writeLastDetentTs v).regs.armed = s.regs.armed := rfl
@[simp] theorem State.writeLastDetentTs_regs_lastDetentTs (v : Option Nat) : (s.writeLastDetentTs v).regs.lastDetentTs = v := rfl
@[simp] theorem State.writeLastDetentTs_regs_lastAcc (v : Option Nat) : (s.writeLastDetentTs v).regs.lastAcc = s.regs.lastAcc := rfl
@[simp] theorem State.writeLastDetentTs_regs_lastRaw (v : Option Nat) : (s.writeLastDetentTs v).regs.lastRaw = s.regs.lastRaw := rfl
@[simp] theorem State.writeLastDetentTs_regs_rotStream (v : Option Nat) : (s.writeLastDetentTs v).regs.rotStream = s.regs.rotStream := rfl
@[simp] theorem State.writeLastDetentTs_cfg (v : Option Nat) : (s.writeLastDetentTs v).cfg = s.cfg := rfl
@[simp] theorem State.writeLastDetentTs_inputs (v : Option Nat) : (s.writeLastDetentTs v).inputs = s.inputs := rfl
@[simp] theorem State.writeLastDetentTs_out (v : Option Nat) : (s.writeLastDetentTs v).out = s.out := rfl
@[simp] theorem State.writeLastDetentTs_strobes (v : Option Nat) : (s.writeLastDetentTs v).strobes = s.strobes := rfl

@[simp] theorem State.writeLastAcc_regs_levelA (g : Gate) (v : Option Nat) : (s.writeLastAcc g v).regs.levelA = s.regs.levelA := rfl
@[simp] theorem State.writeLastAcc_regs_levelB (g : Gate) (v : Option Nat) : (s.writeLastAcc g v).regs.levelB = s.regs.levelB := rfl
@[simp] theorem State.writeLastAcc_regs_lastState (g : Gate) (v : Option Nat) : (s.writeLastAcc g v).regs.lastState = s.regs.lastState := rfl
@[simp] theorem State.writeLastAcc_regs_armed (g : Gate) (v : Option Nat) : (s.writeLastAcc g v).regs.armed = s.regs.armed := rfl
@[simp] theorem State.writeLastAcc_regs_lastDetentTs (g : Gate) (v : Option Nat) : (s.writeLastAcc g v).regs.lastDetentTs = s.regs.lastDetentTs := rfl
@[simp] theorem State.writeLastAcc_regs_lastAcc (g : Gate) (v : Option Nat) : (s.writeLastAcc g v).regs.lastAcc = s.regs.lastAcc.set g v := rfl
@[simp] theorem State.writeLastAcc_regs_lastRaw (g : Gate) (v : Option Nat) : (s.writeLastAcc g v).regs.lastRaw = s.regs.lastRaw := rfl
@[simp] theorem State.writeLastAcc_regs_rotStream (g : Gate) (v : Option Nat) : (s.writeLastAcc g v).regs.rotStream = s.regs.rotStream := rfl
@[simp] theorem State.writeLastAcc_cfg (g : Gate) (v : Option Nat) : (s.writeLastAcc g v).cfg = s.cfg := rfl
@[simp] theorem State.writeLastAcc_inputs (g : Gate) (v : Option Nat) : (s.writeLastAcc g v).inputs = s.inputs := rfl
@[simp] theorem State.writeLastAcc_out (g : Gate) (v : Option Nat) : (s.writeLastAcc g v).out = s.out := rfl
@[simp] theorem State.writeLastAcc_strobes (g : Gate) (v : Option Nat) : (s.writeLastAcc g v).strobes = s.strobes := rfl

@[simp] theorem State.writeLastRaw_regs_levelA (g : Gate) (v : Option Nat) : (s.writeLastRaw g v).regs.levelA = s.regs.levelA := rfl
@[simp] theorem State.writeLastRaw_regs_levelB (g : Gate) (v : Option Nat) : (s.writeLastRaw g v).regs.levelB = s.regs.levelB := rfl
@[simp] theorem State.writeLastRaw_regs_lastState (g : Gate) (v : Option Nat) : (s.writeLastRaw g v).regs.lastState = s.regs.lastState := rfl
@[simp] theorem State.writeLastRaw_regs_armed (g : Gate) (v : Option Nat) : (s.writeLastRaw g v).regs.armed = s.regs.armed := rfl
@[simp] theorem State.writeLastRaw_regs_lastDetentTs (g : Gate) (v : Option Nat) : (s.writeLastRaw g v).regs.lastDetentTs = s.regs.lastDetentTs := rfl
@[simp] theorem State.writeLastRaw_regs_lastAcc (g : Gate) (v : Option Nat) : (s.writeLastRaw g v).regs.lastAcc = s.regs.lastAcc := rfl
@[simp] theorem State.writeLastRaw_regs_lastRaw (g : Gate) (v : Option Nat) : (s.writeLastRaw g v).regs.lastRaw = s.regs.lastRaw.set g v := rfl
@[simp] theorem State.writeLastRaw_regs_rotStream (g : Gate) (v : Option Nat) : (s.writeLastRaw g v).regs.rotStream = s.regs.rotStream := rfl
@[simp] theorem State.writeLastRaw_cfg (g : Gate) (v : Option Nat) : (s.writeLastRaw g v).cfg = s.cfg := rfl
@[simp] theorem State.writeLastRaw_inputs (g : Gate) (v : Option Nat) : (s.writeLastRaw g v).inputs = s.inputs := rfl
@[simp] theorem State.writeLastRaw_out (g : Gate) (v : Option Nat) : (s.writeLastRaw g v).out = s.out := rfl
@[simp] theorem State.writeLastRaw_strobes (g : Gate) (v : Option Nat) : (s.writeLastRaw g v).strobes = s.strobes := rfl

@[simp] theorem State.writeRotStream_regs_levelA (v : Stream) : (s.writeRotStream v).regs.levelA = s.regs.levelA := rfl
@[simp] theorem State.writeRotStream_regs_levelB (v : Stream) : (s.writeRotStream v).regs.levelB = s.regs.levelB := rfl
@[simp] theorem State.writeRotStream_regs_lastState (v : Stream) : (s.writeRotStream v).regs.lastState = s.regs.lastState := rfl
@[simp] theorem State.writeRotStream_regs_armed (v : Stream) : (s.writeRotStream v).regs.armed = s.regs.armed := rfl
@[simp] theorem State.writeRotStream_regs_lastDetentTs (v : Stream) : (s.writeRotStream v).regs.lastDetentTs = s.regs.lastDetentTs := rfl
@[simp] theorem State.writeRotStream_regs_lastAcc (v : Stream) : (s.writeRotStream v).regs.lastAcc = s.regs.lastAcc := rfl
@[simp] theorem State.writeRotStream_regs_lastRaw (v : Stream) : (s.writeRotStream v).regs.lastRaw = s.regs.lastRaw := rfl
@[simp] theorem State.writeRotStream_regs_rotStream (v : Stream) : (s.writeRotStream v).regs.rotStream = v := rfl
@[simp] theorem State.writeRotStream_cfg (v : Stream) : (s.writeRotStream v).cfg = s.cfg := rfl
@[simp] theorem State.writeRotStream_inputs (v : Stream) : (s.writeRotStream v).inputs = s.inputs := rfl
@[simp] theorem State.writeRotStream_out (v : Stream) : (s.writeRotStream v).out = s.out := rfl
@[simp] theorem State.writeRotStream_strobes (v : Stream) : (s.writeRotStream v).strobes = s.strobes := rfl

@[simp] theorem State.clearGates_regs_levelA (m : PerGate Bool) : (s.clearGates m).regs.levelA = s.regs.levelA := rfl
@[simp] theorem State.clearGates_regs_levelB (m : PerGate Bool) : (s.clearGates m).regs.levelB = s.regs.levelB := rfl
@[simp] theorem State.clearGates_regs_lastState (m : PerGate Bool) : (s.clearGates m).regs.lastState = s.regs.lastState := rfl
@[simp] theorem State.clearGates_regs_armed (m : PerGate Bool) : (s.clearGates m).regs.armed = s.regs.armed := rfl
@[simp] theorem State.clearGates_regs_lastDetentTs (m : PerGate Bool) : (s.clearGates m).regs.lastDetentTs = s.regs.lastDetentTs := rfl
@[simp] theorem State.clearGates_regs_lastAcc (m : PerGate Bool) : (s.clearGates m).regs.lastAcc = clearNamed m s.regs.lastAcc := rfl
@[simp] theorem State.clearGates_regs_lastRaw (m : PerGate Bool) : (s.clearGates m).regs.lastRaw = s.regs.lastRaw := rfl
@[simp] theorem State.clearGates_regs_rotStream (m : PerGate Bool) : (s.clearGates m).regs.rotStream = s.regs.rotStream := rfl
@[simp] theorem State.clearGates_cfg (m : PerGate Bool) : (s.clearGates m).cfg = s.cfg := rfl
@[simp] theorem State.clearGates_inputs (m : PerGate Bool) : (s.clearGates m).inputs = s.inputs := rfl
@[simp] theorem State.clearGates_out (m : PerGate Bool) : (s.clearGates m).out = s.out := rfl
@[simp] theorem State.clearGates_strobes (m : PerGate Bool) : (s.clearGates m).strobes = s.strobes := rfl

@[simp] theorem State.resetCycle_regs : (s.resetCycle).regs = Regs.reset := rfl
@[simp] theorem State.resetCycle_cfg : (s.resetCycle).cfg = s.cfg := rfl
@[simp] theorem State.resetCycle_inputs : (s.resetCycle).inputs = s.inputs := rfl
@[simp] theorem State.resetCycle_out : (s.resetCycle).out = .none := rfl
@[simp] theorem State.resetCycle_strobes : (s.resetCycle).strobes = Strobes.quiet := rfl

@[simp] theorem State.present_regs (o : OutRec) (st : Strobes) : (s.present o st).regs = s.regs := rfl
@[simp] theorem State.present_cfg (o : OutRec) (st : Strobes) : (s.present o st).cfg = s.cfg := rfl
@[simp] theorem State.present_inputs (o : OutRec) (st : Strobes) : (s.present o st).inputs = s.inputs := rfl
@[simp] theorem State.present_out (o : OutRec) (st : Strobes) : (s.present o st).out = o := rfl
@[simp] theorem State.present_strobes (o : OutRec) (st : Strobes) : (s.present o st).strobes = st := rfl

@[simp] theorem State.emit_regs (o : OutRec) : (s.emit o).regs = s.regs := rfl
@[simp] theorem State.emit_cfg (o : OutRec) : (s.emit o).cfg = s.cfg := rfl
@[simp] theorem State.emit_inputs (o : OutRec) : (s.emit o).inputs = s.inputs := rfl
@[simp] theorem State.emit_out (o : OutRec) : (s.emit o).out = o := rfl
@[simp] theorem State.emit_strobes (o : OutRec) : (s.emit o).strobes = s.strobes := rfl

@[simp] theorem State.flagReject_regs : (s.flagReject).regs = s.regs := rfl
@[simp] theorem State.flagReject_cfg : (s.flagReject).cfg = s.cfg := rfl
@[simp] theorem State.flagReject_inputs : (s.flagReject).inputs = s.inputs := rfl
@[simp] theorem State.flagReject_out : (s.flagReject).out = s.out := rfl
@[simp] theorem State.flagReject_strobes : (s.flagReject).strobes = { s.strobes with reject := 1 } := rfl

@[simp] theorem State.idleCycle_regs : (s.idleCycle).regs = s.regs := rfl
@[simp] theorem State.idleCycle_cfg : (s.idleCycle).cfg = s.cfg := rfl
@[simp] theorem State.idleCycle_inputs : (s.idleCycle).inputs = s.inputs := rfl
@[simp] theorem State.idleCycle_out : (s.idleCycle).out = .none := rfl
@[simp] theorem State.idleCycle_strobes : (s.idleCycle).strobes = Strobes.quiet := rfl

@[simp] theorem State.reportIllegal_regs : (s.reportIllegal).regs = s.regs := rfl
@[simp] theorem State.reportIllegal_cfg : (s.reportIllegal).cfg = s.cfg := rfl
@[simp] theorem State.reportIllegal_inputs : (s.reportIllegal).inputs = s.inputs := rfl
@[simp] theorem State.reportIllegal_out : (s.reportIllegal).out = .illegal := rfl
@[simp] theorem State.reportIllegal_strobes : (s.reportIllegal).strobes = Strobes.quiet := rfl

@[simp] theorem State.dropInput_regs : (s.dropInput).regs = s.regs := rfl
@[simp] theorem State.dropInput_cfg : (s.dropInput).cfg = s.cfg := rfl
@[simp] theorem State.dropInput_inputs : (s.dropInput).inputs = s.inputs.tail := rfl
@[simp] theorem State.dropInput_out : (s.dropInput).out = s.out := rfl
@[simp] theorem State.dropInput_strobes : (s.dropInput).strobes = s.strobes := rfl

@[simp] theorem State.setNextInput_regs (c : InPorts) : (s.setNextInput c).regs = s.regs := rfl
@[simp] theorem State.setNextInput_cfg (c : InPorts) : (s.setNextInput c).cfg = s.cfg := rfl
@[simp] theorem State.setNextInput_inputs (c : InPorts) : (s.setNextInput c).inputs = c :: s.inputs.tail := rfl
@[simp] theorem State.setNextInput_out (c : InPorts) : (s.setNextInput c).out = s.out := rfl
@[simp] theorem State.setNextInput_strobes (c : InPorts) : (s.setNextInput c).strobes = s.strobes := rfl

@[simp] theorem State.withInputs_regs (cs : List InPorts) : (s.withInputs cs).regs = s.regs := rfl
@[simp] theorem State.withInputs_cfg (cs : List InPorts) : (s.withInputs cs).cfg = s.cfg := rfl
@[simp] theorem State.withInputs_inputs (cs : List InPorts) : (s.withInputs cs).inputs = cs := rfl
@[simp] theorem State.withInputs_out (cs : List InPorts) : (s.withInputs cs).out = s.out := rfl
@[simp] theorem State.withInputs_strobes (cs : List InPorts) : (s.withInputs cs).strobes = s.strobes := rfl

end Machine

end Sys2Proof
end

