-- ==== Sys2Proof/Laws/Gates.lean ====
section
/-! SUPPORT. What the gate procedure can do, said once (41_debounce_speed.md R132 to R143). -/

namespace Sys2Proof.Machine

/-- What the `TS_W`-bit subtractor computes is `(t - a) mod 2^TS_W`. -/
theorem elapsed_eq (tsWidth : Nat) (a t : Nat) : elapsed tsWidth a t = elapsedNat tsWidth a t := by
  unfold elapsed elapsedNat
  rw [BitVec.toNat_sub, BitVec.toNat_ofNat, BitVec.toNat_ofNat]
  generalize hm : 2 ^ tsWidth = m
  have hpos : 0 < m := hm ▸ Nat.two_pow_pos tsWidth
  have ha : a % m < m := Nat.mod_lt _ hpos
  rw [← Int.toNat_natCast ((m - a % m + t % m) % m)]
  congr 1
  push_cast [Nat.cast_sub ha.le]
  rw [show ((m : Int) - a % m + t % m) = t % m - a % m + m by ring, Int.add_emod_right, ← Int.sub_emod]

theorem elapsedNat_of_le {tsWidth a t : Nat} (h : a ≤ t) : elapsedNat tsWidth a t = (t - a) % 2 ^ tsWidth := by
  unfold elapsedNat
  rw [← Nat.cast_sub h, ← Int.natCast_mod, Int.toNat_natCast]

theorem elapsedNat_lt (tsWidth a t : Nat) : elapsedNat tsWidth a t < 2 ^ tsWidth := by
  rw [← elapsed_eq]; exact BitVec.isLt _

/-- Only the low `TS_W` bits of the two timestamps matter. -/
theorem elapsedNat_mod (tsWidth a t : Nat) :
    elapsedNat tsWidth (a % 2 ^ tsWidth) (t % 2 ^ tsWidth) = elapsedNat tsWidth a t := by
  simp only [← elapsed_eq, elapsed, ← BitVec.toNat_ofNat, BitVec.ofNat_toNat, BitVec.setWidth_eq]

theorem rejects_iff (cfg : Cfg) (g : Gate) (prior : Option Nat) (t : Nat) :
    rejects cfg.tsWidth (cfg.minInterval.get g) prior t = true ↔ Rejected cfg g prior t := by
  cases prior with
  | none => simp [rejects, Rejected]
  | some a => simp [rejects, Rejected, elapsed_eq]

theorem not_rejected_none (cfg : Cfg) (g : Gate) (t : Nat) : ¬ Rejected cfg g none t := by
  simp [Rejected]

theorem speedOf_eq (tsWidth : Nat) (prior : Option Nat) (t : Nat) :
    speedOf tsWidth prior t = specSpeed tsWidth prior t := by
  cases prior with
  | none => rfl
  | some a => simp only [speedOf, specSpeed, elapsed_eq, Config.speedMax, Config.rateNum]

/-- The speed is at most `SPEED_MAX`, so it fits its 10 bits (41_debounce_speed.md R137). -/
theorem specSpeed_le (tsWidth : Nat) (prior : Option Nat) (t : Nat) : specSpeed tsWidth prior t ≤ 1000 := by
  cases prior with
  | none => simp [specSpeed]
  | some a => simp only [specSpeed]; split <;> omega

theorem specSpeed_toNat (tsWidth : Nat) (prior : Option Nat) (t : Nat) :
    (BitVec.ofNat 10 (specSpeed tsWidth prior t)).toNat = specSpeed tsWidth prior t := by
  have := specSpeed_le tsWidth prior t
  rw [BitVec.toNat_ofNat]
  omega

theorem acceptedOutput_eq (cfg : Cfg) (prior : Option Nat) (t : Nat) (ev : RawEvent) :
    acceptedOutput cfg prior t ev = specOutput cfg prior t ev := by
  cases ev with
  | detent stream dir => simp only [acceptedOutput, specOutput, speedOf_eq, changeOf, Config.stepFast, Config.stepSlow]
  | button level => rfl

/-- The gate procedure in the two cases of its verdict (41_debounce_speed.md R133). -/
theorem gateEvent_cases (ev : RawEvent) (t : Nat) (s : State) :
    (Rejected s.cfg ev.gate (s.regs.lastAcc.get ev.gate) t ∧
      gateEvent ev t s = (s.writeLastRaw ev.gate (some t)).flagReject) ∨
    (¬ Rejected s.cfg ev.gate (s.regs.lastAcc.get ev.gate) t ∧
      gateEvent ev t s = ((s.writeLastRaw ev.gate (some t)).writeLastAcc ev.gate (some t)).emit
        (specOutput s.cfg (s.regs.lastAcc.get ev.gate) t ev)) := by
  rw [← rejects_iff, ← acceptedOutput_eq]
  by_cases h : rejects s.cfg.tsWidth (s.cfg.minInterval.get ev.gate) (s.regs.lastAcc.get ev.gate) t = true
  · exact .inl ⟨h, if_pos h⟩
  · exact .inr ⟨h, if_neg h⟩

/-- The frame of the gate procedure: the parameters, the inputs, the decoder's registers, the stream and the strobes
but `dbg_reject` are unchanged. -/
structure GateFrame (s u : State) : Prop where
  cfg : u.cfg = s.cfg
  inputs : u.inputs = s.inputs
  regs : u.regs = { s.regs with lastAcc := u.regs.lastAcc, lastRaw := u.regs.lastRaw }
  tr : u.strobes.tr = s.strobes.tr
  det : u.strobes.det = s.strobes.det

theorem gateEvent_frame (ev : RawEvent) (t : Nat) (s : State) : GateFrame s (gateEvent ev t s) := by
  obtain ⟨-, h⟩ | ⟨-, h⟩ := gateEvent_cases ev t s <;> rw [h] <;> exact ⟨rfl, rfl, rfl, rfl, rfl⟩

/-- The gate procedure meets its relation, when it starts with no record and no rejection presented. -/
theorem gateEvent_spec (ev : RawEvent) (t : Nat) (s : State) (ho : s.out = .none)
    (hr : s.strobes.reject = 0) : GateSpec ev t s (gateEvent ev t s) := by
  obtain ⟨hc, h⟩ | ⟨hc, h⟩ := gateEvent_cases ev t s
  · rw [h]; exact ⟨rfl, fun _ => ⟨rfl, ho, rfl⟩, fun hn => absurd hc hn⟩
  · rw [h]; exact ⟨rfl, fun hn => absurd hn hc, fun _ => ⟨rfl, rfl, hr⟩⟩

/-- The relation of the gate procedure reads nothing of the state before but the parameters and the gate registers. -/
theorem GateSpec.congr {ev : RawEvent} {t : Nat} {s s' u : State} (h : GateSpec ev t s u) (hc : s'.cfg = s.cfg)
    (ha : s'.regs.lastAcc = s.regs.lastAcc) (hr : s'.regs.lastRaw = s.regs.lastRaw) : GateSpec ev t s' u := by
  obtain ⟨h1, h2, h3⟩ := h
  constructor <;> rw [hc, ha] at * <;> simp_all

end Sys2Proof.Machine
end

