-- ==== Sys2Proof/Laws/Decoder.lean ====
section
/-! SUPPORT. What the edge procedure can do, said once (40_quadrature_decoder.md R100 to R109). -/

namespace Sys2Proof.Machine

theorem newState_eq (pin : Pin) (level : Bit) (r : Regs) :
    combined (if pin = .a then level else r.levelA) (if pin = .b then level else r.levelB) = newState pin level r := by
  cases pin <;> rfl

theorem levelAAfter_eq (pin : Pin) (level stored : Bit) :
    levelAAfter pin level stored = if pin = .a then level else stored := by cases pin <;> rfl

theorem levelBAfter_eq (pin : Pin) (level stored : Bit) :
    levelBAfter pin level stored = if pin = .b then level else stored := by cases pin <;> rfl

theorem transitionCode_eq (d : Sgn) :
    transitionCode d = if d = .pos then 0b01 else if d = .neg then 0b11 else 0b10 := by cases d <;> rfl

/-- A detent is the direction that was armed (40_quadrature_decoder.md R107). -/
theorem detent_cases (pin : Pin) (level : Bit) (r : Regs) :
    (CompletesClick pin level r ∧ r.armed ≠ .zero ∧
      detent (tt r.lastState (newState pin level r)) (newState pin level r) r.armed = r.armed) ∨
    (¬ CompletesClick pin level r ∧
      detent (tt r.lastState (newState pin level r)) (newState pin level r) r.armed = .zero) := by
  by_cases h : CompletesClick pin level r
  · obtain ⟨h1, h2, h3⟩ := h
    refine .inl ⟨⟨h1, h2, h3⟩, h3 ▸ h1, ?_⟩
    unfold detent
    rw [if_pos ⟨h1, h2, h3⟩, h3]
  · exact .inr ⟨h, if_neg h⟩

/-- The state the edge procedure hands to the gate: the decoder's writes done and its strobes presented. -/
def decodedState (pin : Pin) (level : Bit) (s : State) (det : Sgn) : State :=
  (s.writeDecoder (if pin = .a then level else s.regs.levelA) (if pin = .b then level else s.regs.levelB)
    (newState pin level s.regs)
    (armedAfter s.regs.lastState (newState pin level s.regs) (tt s.regs.lastState (newState pin level s.regs))
      s.regs.armed)).present .none
    { tr := transitionCode (tt s.regs.lastState (newState pin level s.regs)), det := det.code, reject := 0 }

/-- The edge procedure in its two cases: no detent, or a detent handed to the gate (40_quadrature_decoder.md R103). -/
theorem decodeEdge_cases (pin : Pin) (level : Bit) (t : Nat) (s : State) :
    (¬ CompletesClick pin level s.regs ∧ decodeEdge pin level t s = decodedState pin level s .zero) ∨
    (CompletesClick pin level s.regs ∧ s.regs.armed ≠ .zero ∧
      decodeEdge pin level t s = gateEvent (.detent s.regs.rotStream (dirOf s.regs.armed)) t
        ((decodedState pin level s s.regs.armed).writeLastDetentTs (some t))) := by
  obtain ⟨hc, hz, hd⟩ | ⟨hc, hd⟩ := detent_cases pin level s.regs
  · refine .inr ⟨hc, hz, ?_⟩
    simp only [decodeEdge, levelAAfter_eq, levelBAfter_eq, newState_eq, hd]
    cases ha : s.regs.armed with
    | zero => exact absurd ha hz
    | pos => simp only [Sgn.dir?, dirOf, decodedState, ha, if_true]
    | neg => simp only [Sgn.dir?, dirOf, decodedState, ha, reduceCtorEq, if_false]
  · refine .inl ⟨hc, ?_⟩
    simp only [decodeEdge, levelAAfter_eq, levelBAfter_eq, newState_eq, hd, Sgn.dir?, decodedState]

/-- The edge procedure meets its relation (40_quadrature_decoder.md R103 to R109). -/
theorem decodeEdge_spec (pin : Pin) (level : Bit) (t : Nat) (s : State) :
    EdgeSpec pin level t s (decodeEdge pin level t s) := by
  obtain ⟨hc, h⟩ | ⟨hc, hz, h⟩ := decodeEdge_cases pin level t s
  · rw [h]
    exact ⟨rfl, rfl, rfl, rfl, rfl, rfl, rfl, transitionCode_eq _, fun _ => ⟨rfl, rfl, rfl, rfl, rfl, rfl⟩,
      fun h => absurd h hc⟩
  · have g := gateEvent_frame (.detent s.regs.rotStream (dirOf s.regs.armed)) t
      ((decodedState pin level s s.regs.armed).writeLastDetentTs (some t))
    have sp := gateEvent_spec (.detent s.regs.rotStream (dirOf s.regs.armed)) t
      ((decodedState pin level s s.regs.armed).writeLastDetentTs (some t)) rfl rfl
    rw [← h] at g sp
    obtain ⟨g1, g2, g3, g4, g5⟩ := g
    refine ⟨g1, g2, ?_, ?_, ?_, ?_, ?_, ?_, fun h => absurd hc h, fun _ => ⟨?_, ?_, sp.congr rfl rfl rfl⟩⟩
    all_goals first | rw [g3]; rfl | rw [g4]; exact transitionCode_eq _ | rw [g5]
    show s.regs.armed.code = _
    cases ha : s.regs.armed <;> simp_all [Sgn.code]

/-- The bits of a combined state, the two levels (40_quadrature_decoder.md R100). -/
theorem combined_bits (a b : Bit) :
    (combined a b).extractLsb' 1 1 = a ∧ (combined a b).extractLsb' 0 1 = b := by
  revert a b; decide

theorem combined_inj {a b a' b' : Bit} (h : combined a b = combined a' b') : a = a' ∧ b = b' := by
  obtain ⟨h1, h2⟩ := combined_bits a b
  obtain ⟨h3, h4⟩ := combined_bits a' b'
  rw [h] at h1 h2
  exact ⟨h1.symm.trans h3, h2.symm.trans h4⟩

end Sys2Proof.Machine
end

