-- ==== Sys2Proof/Laws/Output.lean ====
section
/-! SUPPORT. The output word as a sum of its fields (30_encoding.md R77). -/

namespace Sys2Proof.Machine

/-- The fields below the timestamp, as a sum: `change` from bit 16, `speed` from bit 6, `level`, `stream`, `dir` and
`kind` in bits 5, 4, `[3:2]` and `[1:0]`. -/
theorem lowFields_toNat (change : BitVec 7) (speed : BitVec 10) (level stream : Bit) (dir kind : BitVec 2) :
    (change ++ speed ++ level ++ stream ++ dir ++ kind).toNat =
      change.toNat * 65536 + speed.toNat * 64 + level.toNat * 32 + stream.toNat * 16 + dir.toNat * 4 + kind.toNat := by
  simp only [BitVec.toNat_append]
  rw [← Nat.shiftLeft_add_eq_or_of_lt speed.isLt, ← Nat.shiftLeft_add_eq_or_of_lt level.isLt,
    ← Nat.shiftLeft_add_eq_or_of_lt stream.isLt, ← Nat.shiftLeft_add_eq_or_of_lt dir.isLt,
    ← Nat.shiftLeft_add_eq_or_of_lt kind.isLt]
  simp only [Nat.shiftLeft_eq]
  omega

/-- The output word of a timestamp that fits the width, as a sum. -/
theorem outFields_eq_add {tsWidth ts : Nat} (h : ts < 2 ^ tsWidth) (change : BitVec 7) (speed : BitVec 10)
    (level stream : Bit) (dir kind : BitVec 2) :
    outFields tsWidth ts change speed level stream dir kind =
      ts * 2 ^ 24 + (change.toNat * 65536 + speed.toNat * 64 + level.toNat * 32 + stream.toNat * 16 + dir.toNat * 4 +
        kind.toNat) := by
  have hlow : (change ++ speed ++ level ++ stream ++ dir ++ kind).toNat < 2 ^ 24 :=
    Nat.lt_trans (BitVec.isLt _) (by decide)
  unfold outFields
  rw [← Nat.shiftLeft_add_eq_or_of_lt hlow, lowFields_toNat, Nat.shiftLeft_eq]
  simp [slice, Nat.mod_eq_of_lt h]

end Sys2Proof.Machine
end

