-- ==== Sys2Proof/Laws/Words.lean ====
section
/-! SUPPORT. What the encoder and the decoder's field selectors do to each other (30_encoding.md R70 to R74). -/

namespace Sys2Proof

/-- A word put together by the encoder, as a sum. -/
theorem encode_eq_add (i : Instr) : encode i = i.ts?.getD 0 * 2 ^ 8 + (encodeCmd i).toNat := by
  unfold encode
  rw [← Nat.shiftLeft_add_eq_or_of_lt (encodeCmd i).isLt, Nat.shiftLeft_eq]

theorem wordCmd_encode (i : Instr) : wordCmd (encode i) = encodeCmd i := by
  rw [encode_eq_add]
  apply BitVec.eq_of_toNat_eq
  have := (encodeCmd i).isLt
  simp only [wordCmd, BitVec.toNat_ofNat]
  omega

/-- A well-formed operation's timestamp fits the build's width (00_scope.md R8). -/
theorem ts_lt_of_wf {tsWidth : Nat} {i : Instr} (h : i.wf tsWidth = true) : i.ts?.getD 0 < 2 ^ tsWidth := by
  cases i <;> simp_all [Instr.wf, Instr.ts?, tsInRange]

theorem wordTs_encode {tsWidth : Nat} {i : Instr} (h : i.wf tsWidth = true) :
    wordTs tsWidth (encode i) = i.ts?.getD 0 := by
  have hlt := ts_lt_of_wf h
  have hcmd := (encodeCmd i).isLt
  rw [encode_eq_add]
  unfold wordTs slice
  rw [Nat.mul_comm, Nat.mul_add_div (by norm_num), Nat.div_eq_of_lt hcmd, Nat.add_zero, Nat.mod_eq_of_lt hlt]

/-- A word of `EW` bits is its timestamp field above its command byte. -/
theorem word_of_parts {tsWidth : Nat} {w : Nat} (h : w < 2 ^ (tsWidth + 8)) :
    wordTs tsWidth w * 2 ^ 8 + (wordCmd w).toNat = w := by
  have h1 : w / 2 ^ 8 < 2 ^ tsWidth := Nat.div_lt_of_lt_mul (by rwa [Nat.mul_comm, ← Nat.pow_add])
  unfold wordTs wordCmd slice
  rw [Nat.mod_eq_of_lt h1, BitVec.toNat_ofNat, Nat.mul_comm]
  exact Nat.div_add_mod w (2 ^ 8)

theorem wordTs_lt (tsWidth : Nat) (w : Nat) : wordTs tsWidth w < 2 ^ tsWidth :=
  Nat.mod_lt _ (Nat.two_pow_pos _)

/-- What the decoder reads is well-formed at its width. -/
theorem wf_of_decode {tsWidth : Nat} {w : Nat} {i : Instr} (h : decode tsWidth w = .instr i) :
    i.wf tsWidth = true := by
  have hlt := wordTs_lt tsWidth w
  simp only [decode] at h
  repeat' split at h
  all_goals cases h
  all_goals first | rfl | exact decide_eq_true hlt

end Sys2Proof
end

