-- ==== Sys2Proof/Laws/Step.lean ====
section
/-! SUPPORT. What a step can do: it always answers a next state, and which (20_memory.md R52). -/

namespace Sys2Proof.Machine

/-- The next state of an operation. -/
def execState : Instr → State → State
  | .nop, s => s.present .none Strobes.quiet
  | .edgeA level ts, s => decodeEdge .a level ts s
  | .edgeB level ts, s => decodeEdge .b level ts s
  | .btnEdge level ts, s => gateEvent (.button level) ts (s.present .none Strobes.quiet)
  | .page stream mask, s => ((s.writeRotStream stream).clearGates mask).present .none Strobes.quiet

theorem exec_eq (i : Instr) (s : State) : exec i s = .next (execState i s) := by cases i <;> rfl

/-- No operation changes the parameters or the coming input cycles. -/
theorem execState_keeps (i : Instr) (s : State) :
    (execState i s).cfg = s.cfg ∧ (execState i s).inputs = s.inputs := by
  have edge (pin level ts) : (decodeEdge pin level ts s).cfg = s.cfg ∧ (decodeEdge pin level ts s).inputs = s.inputs :=
    have e := decodeEdge_spec pin level ts s
    ⟨e.cfg, e.inputs⟩
  cases i with
  | nop => exact ⟨rfl, rfl⟩
  | edgeA level ts => exact edge .a level ts
  | edgeB level ts => exact edge .b level ts
  | btnEdge level ts =>
    have g := gateEvent_frame (.button level) ts (s.present .none Strobes.quiet)
    exact ⟨g.cfg, g.inputs⟩
  | page stream mask => exact ⟨rfl, rfl⟩

/-- The operation a cycle delivers is well-formed at the width of the build (30_encoding.md R72). -/
theorem wf_of_nextAction {s : State} {i : Instr} (h : s.nextAction = .event i) : i.wf s.cfg.tsWidth = true := by
  simp only [State.nextAction, InPorts.action] at h
  repeat' split at h
  all_goals cases h
  exact wf_of_decode ‹_›

/-- The next state of a cycle. -/
def cycleState (s : State) : State :=
  match s.nextAction with
  | .reset     => s.dropInput.resetCycle
  | .idle      => s.dropInput.idleCycle
  | .event i   => execState i s.dropInput
  | .illegal _ => s.dropInput.reportIllegal

theorem step_eq (s : State) : step s = .next (cycleState s) := by
  cases h : s.nextAction <;> simp [step, cycleState, h, exec_eq]

theorem next_inj {a b : State} (h : (Host.Outcome.next a : Host.Outcome State Fault Refusal) = .next b) : a = b := by
  injection h

/-- An operation that answers a next state answers this one. -/
theorem eq_execState {i : Instr} {s u : State} (h : exec i s = .next u) : u = execState i s :=
  next_inj (h.symm.trans (exec_eq i s))

theorem eq_cycleState {s u : State} (h : step s = .next u) : u = cycleState s :=
  next_inj (h.symm.trans (step_eq s))

@[simp] theorem nextInput_cons (s : State) (c : InPorts) (cs : List InPorts) (h : s.inputs = c :: cs) :
    s.nextInput = c := by simp [State.nextInput, h]

@[simp] theorem nextInput_nil (s : State) (h : s.inputs = []) : s.nextInput = InPorts.idle := by
  simp [State.nextInput, h]

end Sys2Proof.Machine
end

