-- ==== Sys2Proof/Laws/PerInstr.lean ====
section
/-! SUPPORT. The family OpcodeRow: each operation's encoding selects its own row of the opcode table and no other
(30_encoding.md R73). -/

namespace Sys2Proof.Laws.OpcodeRow

/-- The row of an operation (30_encoding.md R73). -/
def rowOf : Instr → OpRow
  | .nop => rowNop
  | .edgeA _ _ => rowEdgeA
  | .edgeB _ _ => rowEdgeB
  | .btnEdge _ _ => rowBtnEdge
  | .page _ _ => rowPage

/-- The encoding of the operation selects exactly its own row. -/
def Statement (i : Instr) : Prop := opTable.filter (·.selects (wordCmd (encode i))) = [rowOf i]

theorem nop : Statement .nop := by
  rw [Statement, wordCmd_encode]; decide

theorem edgeA (level : Bit) (ts : Nat) : Statement (.edgeA level ts) := by
  rw [Statement, wordCmd_encode]; revert level
  show ∀ level : Bit, opTable.filter (·.selects (cmdBit level 3 ||| rowEdgeA.pattern)) = [rowEdgeA]
  decide

theorem edgeB (level : Bit) (ts : Nat) : Statement (.edgeB level ts) := by
  rw [Statement, wordCmd_encode]; revert level
  show ∀ level : Bit, opTable.filter (·.selects (cmdBit level 3 ||| rowEdgeB.pattern)) = [rowEdgeB]
  decide

theorem btnEdge (level : Bit) (ts : Nat) : Statement (.btnEdge level ts) := by
  rw [Statement, wordCmd_encode]; revert level
  show ∀ level : Bit, opTable.filter (·.selects (cmdBit level 3 ||| rowBtnEdge.pattern)) = [rowBtnEdge]
  decide

theorem page (stream : Stream) (mask : PerGate Bool) : Statement (.page stream mask) := by
  rw [Statement, wordCmd_encode]
  obtain ⟨m, p, b⟩ := mask
  cases stream <;> cases m <;> cases p <;> cases b <;> decide

end Sys2Proof.Laws.OpcodeRow
end

