-- ==== Sys2Proof/Tests/Slice0.lean ====
section
/-! SUPPORT. The model's own tests. Expected results come from 95_test_vectors.md (the vector is named) or from the
rule's own example; the witnesses at the end show that the hypotheses of the statements can be met. -/

namespace Sys2Proof.Tests

open Sys2Proof.Machine

/-- The next state of an outcome, if it has one. -/
def next? : Host.Outcome State Fault Refusal → Option State
  | .next u    => some u
  | .fault _   => none
  | .refused _ => none

/-- Configuration TC0 of 95_test_vectors.md, with its illustrative threshold 50, in the reset state. -/
def tc0 : State :=
  { State.reset with
    cfg := { tsWidth := 64, minInterval := { menu := 15000, pot := 10000, btn := 200000 }, speedThreshold := 50 } }

/-- The state in a build of another width. -/
def atWidth (tsWidth : Nat) (s : State) : State := { s with cfg := { s.cfg with tsWidth := tsWidth } }

/-- TC0 with other registers. -/
def tcRegs (r : Regs) : State := { tc0 with regs := r }

/-- One event short of a clockwise click, with the accepted timestamp `acc` on both rotation gates. -/
def nearCw (stream : Stream) (acc : Option Nat) : State :=
  tcRegs { Regs.reset with
    levelA := 1, lastState := 2, armed := .pos, rotStream := stream
    lastDetentTs := acc
    lastAcc := { menu := acc, pot := acc, btn := none }
    lastRaw := { menu := acc, pot := acc, btn := none } }

/-- One event short of a counter-clockwise click. -/
def nearCcw (stream : Stream) (acc : Option Nat) : State :=
  tcRegs { Regs.reset with
    levelB := 1, lastState := 1, armed := .neg, rotStream := stream
    lastDetentTs := acc
    lastAcc := { menu := acc, pot := acc, btn := none }
    lastRaw := { menu := acc, pot := acc, btn := none } }

/-- The button gate after an accepted event at 5 000 000 (vectors V26, V27). -/
def afterPress : State :=
  tcRegs { Regs.reset with
    lastAcc := { menu := none, pot := none, btn := some 5000000 }
    lastRaw := { menu := none, pot := none, btn := some 5000000 } }

/-- The start state of the `PAGE` vectors V30 to V37. -/
def beforePage : State :=
  tcRegs { Regs.reset with
    lastAcc := { menu := some 11, pot := some 22, btn := some 33 }
    lastRaw := { menu := some 11, pot := some 22, btn := some 33 } }

/-! ### Well-formedness: one ill-formed term for each check -/

theorem test_wf_no_timestamp_bits : (atWidth 0 tc0).cfg.wf = false := by decide
theorem test_wf_interval_out_of_range : (atWidth 17 tc0).cfg.wf = false := by decide
theorem test_wf_threshold_out_of_range :
    ({ tsWidth := 5, minInterval := { menu := 0, pot := 0, btn := 0 }, speedThreshold := 32 } : Cfg).wf = false := by decide
theorem test_wf_cfg_accepts : tc0.cfg.wf = true ∧ (atWidth 18 tc0).cfg.wf = true := by decide
theorem test_wf_instr_timestamp_out_of_range : (Instr.edgeA 1 4294967296).wf 32 = false := by decide
theorem test_wf_instr_accepts : (Instr.edgeA 1 4294967295).wf 32 = true := by decide
theorem test_wf_level_out_of_range : (AsmLine.edgeA 2 0).wf 64 0 = false := by decide
theorem test_wf_timestamp_out_of_range : (AsmLine.btnEdge 0 18446744073709551616).wf 64 0 = false := by decide
theorem test_wf_stepTo_same_state : (AsmLine.stepTo 1 0).wf 64 1 = false := by decide
theorem test_wf_stepTo_two_bits : (AsmLine.stepTo 3 0).wf 64 0 = false := by decide
theorem test_wf_stepTo_no_state : (AsmLine.stepTo 5 0).wf 64 1 = false := by decide
theorem test_wf_detent_first_step_two_bits : (AsmLine.detentCw 0 1).wf 64 2 = false := by decide
theorem test_wf_detent_first_step_same_state : (AsmLine.detentCw 0 1).wf 64 1 = false := by decide
theorem test_wf_detent_timestamp : (AsmLine.detentCcw 18446744073709551615 1).wf 64 0 = false := by decide
theorem test_wf_accepts : (AsmLine.edgeB 1 18446744073709551615).wf 64 3 = true := by decide

/-! ### Words written out from 30_encoding.md R70 and R73 (95_test_vectors.md section 2.5, 2.4, S1, S4) -/

theorem test_decode_nop_ignores_ts : decode 64 0x123456789ABCDEF000 = .instr .nop := by decide
theorem test_decode_edgeA : decode 64 0x00000000000007D009 = .instr (.edgeA 1 2000) := by decide
theorem test_decode_edgeB_largest_ts :
    decode 64 0xFFFFFFFFFFFFFFFF0A = .instr (.edgeB 1 18446744073709551615) := by decide
theorem test_decode_btnEdge : decode 64 0x00000000004F587F03 = .instr (.btnEdge 0 5199999) := by decide
theorem test_decode_page_ignores_ts :
    decode 64 0x000000000000ABCD34 = .instr (.page .menu { menu := true, pot := true, btn := false }) := by decide
theorem test_decode_page_pot_btn :
    decode 64 0x00000000000000004C = .instr (.page .pot { menu := false, pot := false, btn := true }) := by decide
theorem test_decode_op5 : decode 64 0x000000000000000005 = .illegal .reservedOp := by decide
theorem test_decode_nop_bit3 : decode 64 0x000000000000000008 = .illegal .nopBitsSet := by decide
theorem test_decode_edgeA_bit4 : decode 64 0x000000000000000011 = .illegal .edgeBitsSet := by decide
theorem test_decode_page_bit7 : decode 64 0x000000000000000084 = .illegal .pageBit7Set := by decide
/-- The largest timestamp of a 40-bit word; a bit above the word's 40 is no bit of the port. -/
theorem test_decode_width_32 :
    decode 32 0xFFFFFFFF0A = .instr (.edgeB 1 4294967295) ∧ decode 32 0x1FFFFFFFF0A = decode 32 0xFFFFFFFF0A := by decide
/-- The example of 30_encoding.md R79. -/
theorem test_encode_edgeB : encode (.edgeB 1 1000) = 0x3E80A := by decide
theorem test_decodeTableWord : decodeTableWord 72 0x00000000004F58800B = some (.btnEdge 1 5200000) := by decide

/-! ### One step each -/

/-- Program P1, event 8: equality with the threshold is fast. -/
theorem test_edgeA_fast_detent_word :
    (next? (exec (.edgeA 0 123000) (nearCw .menu (some 103000)))).map (·.outPorts) =
      some { outValid := 1, outWord := 0x000000000001E078640C85, dbgTr := 0b01, dbgDet := 0b01, dbgReject := 0 } := by
  decide

/-- Program P3, event 9: a rejected detent keeps the decoder's writes. -/
theorem test_edgeA_rejected_detent :
    (next? (exec (.edgeA 0 1013000) (nearCw .pot (some 1006000)))).map (fun u => (u.regs, u.out, u.strobes)) =
      some ({ Regs.reset with
                rotStream := .pot
                lastDetentTs := some 1013000
                lastAcc := { menu := some 1006000, pot := some 1006000, btn := none }
                lastRaw := { menu := some 1006000, pot := some 1013000, btn := none } },
            .none, { tr := 0b01, det := 0b01, reject := 1 }) := by decide

/-- Program P3, event 17: one below the threshold is slow. -/
theorem test_edgeB_slow_detent_word :
    (next? (exec (.edgeB 0 1037001) (nearCcw .pot (some 1017000)))).map (·.outPorts) =
      some { outValid := 1, outWord := 0x00000000000FD2C90A0C5D, dbgTr := 0b11, dbgDet := 0b11, dbgReject := 0 } := by
  decide

/-- Sequence S3, event 2: a reversal into home is no detent. -/
theorem test_edgeB_reversal :
    (next? (exec (.edgeB 0 2000)
      (tcRegs { Regs.reset with levelB := 1, lastState := 1, armed := .pos }))).map (fun u => (u.regs, u.out, u.strobes)) =
      some (Regs.reset, .none, { tr := 0b11, det := 0, reject := 0 }) := by decide

/-- Vector V26: one microsecond below the interval is rejected. -/
theorem test_btnEdge_rejected :
    (next? (exec (.btnEdge 0 5199999) afterPress)).map (fun u => (u.regs.lastAcc.btn, u.regs.lastRaw.btn, u.outPorts)) =
      some (some 5000000, some 5199999,
        { outValid := 0, outWord := 0, dbgTr := 0, dbgDet := 0, dbgReject := 1 }) := by decide

/-- Vector V27: exactly the interval is accepted. -/
theorem test_btnEdge_accepted :
    (next? (exec (.btnEdge 1 5200000) afterPress)).map (fun u => (u.regs.lastAcc.btn, u.out.word 64)) =
      some (some 5200000, 0x00000000004F5880000022) := by decide

/-- Vector V34, delivered as a word. -/
theorem test_page_delivered :
    (next? (step (beforePage.withFetchWord 72 0x3C))).map (·.regs) =
      some { beforePage.regs with rotStream := .pot, lastAcc := { menu := none, pot := none, btn := some 33 } } := by
  decide

/-- Vector V33. -/
theorem test_page_pot :
    (next? (exec (.page .pot { menu := false, pot := true, btn := false }) beforePage)).map
      (fun u => (u.regs.rotStream, u.regs.lastAcc, u.out)) =
      some (.pot, { menu := some 11, pot := none, btn := some 33 }, .none) := by decide

/-- Vector V61, delivered as a word. -/
theorem test_nop_delivered :
    (next? (step (beforePage.withFetchWord 72 0))).map (fun u => (u.regs, u.out)) =
      some (beforePage.regs, .none) := by decide

/-- Vector V49: an illegal word writes no level, and the output word is 3. -/
theorem test_illegal_word :
    (next? (step (tc0.withFetchWord 72 0x11))).map (fun u => (u.regs, u.out.word 64)) = some (Regs.reset, 3) := by decide

/-- Vector V60: reset wins over an event. -/
theorem test_reset_cycle :
    (next? (step (beforePage.setNextInput { rst := true, evValid := true, evWord := 0x3C }))).map
      (fun u => (u.regs, u.out)) = some (Regs.reset, .none) := by decide

/-- Vector V62, from the reset state itself. -/
theorem test_same_state_edge_after_reset :
    (next? (step (State.reset.withFetchWord 72 0x501))).map (fun u => (u.regs, u.strobes.tr)) =
      some (Regs.reset, 0b10) := by decide

/-- 95_test_vectors.md section 2.3, wrap-around: elapsed 11 000 across the wrap. -/
theorem test_elapsed_wraps :
    (next? (exec (.edgeA 0 6000) (nearCw .pot (some 0xFFFFFFFFFFFFEC78)))).map (·.out) =
      some (.rot .cw .pot 90 100 6000) := by decide

/-- 70_reset_and_hazards.md R207, `TS_W = 32`: across one wrap the elapsed time is right (6000 + 5000). -/
theorem test_elapsed_wraps_at_32 :
    (next? (exec (.edgeA 0 6000) (atWidth 32 (nearCw .pot (some 4294962296))))).map (·.out) =
      some (.rot .cw .pot 90 100 6000) := by decide

/-- 70_reset_and_hazards.md R207, `TS_W = 32`, delivered as a word: one lap and 100 µs after the accepted press is seen
as 100 µs, and wrongly rejected. -/
theorem test_lap_is_rejected_at_32 :
    (next? (step ((atWidth 32 afterPress).withFetchWord 40 0x004C4BA403))).map
      (fun u => (u.regs.lastRaw.btn, u.strobes.reject)) = some (some 5000100, 1) := by decide

/-- Vectors V1, V5, V12, V19, V19b: the speed of an elapsed time. -/
theorem test_speed_table :
    [0, 1001, 15152, 1000001, 18446744073709551615].map (fun e => speedOf 64 (some 0) e) =
      [1000, 999, 65, 0, 0] := by decide

/-! ### The assembler -/

/-- Sequence S1 as one line of text, with a comment. -/
theorem test_asm_detentCw :
    assembleText 64 ["DETENT_CW 1000, 1000 ; one click".toList] =
      some [0x00000000000003E80A, 0x00000000000007D009, 0x0000000000000BB802, 0x0000000000000FA001] := by decide

/-- Program P3, line 1, and the ticks and steps of 30_encoding.md R80. -/
theorem test_asm_page_tick_stepTo :
    assembleText 64 ["PAGE POT, MENU|POT".toList, "".toList, "TICK".toList, "STEP_TO 2, 0x10".toList] =
      some [0x00000000000000003C, 0, 0x000000000000001009] := by decide

/-- 30_encoding.md R80: a click line from tracked state 3 is its four steps, 3→1→3→2→0. -/
theorem test_asm_detentCw_from_3 :
    assembleText 64 ["EDGE_B 1, 1".toList, "EDGE_A 1, 2".toList, "DETENT_CW 3, 1".toList] =
      some [0x10A, 0x209, 0x301, 0x409, 0x502, 0x601] := by decide

/-- 30_encoding.md R80: a step to the tracked state is an error. -/
theorem test_asm_stepTo_error :
    assembleText 64 ["EDGE_B 1, 5".toList, "STEP_TO 1, 6".toList] = none := by decide

/-! ### Witnesses: the hypotheses of the statements can be met -/

theorem fit_of_forall {w : Nat} {r : Regs} (h1 : ∀ t ∈ r.lastDetentTs, t < 2 ^ w)
    (h2 : ∀ g, ∀ t ∈ r.lastAcc.get g, t < 2 ^ w) (h3 : ∀ g, ∀ t ∈ r.lastRaw.get g, t < 2 ^ w) : r.fit w :=
  ⟨fun t h => h1 t h, fun g t h => h2 g t h, fun g t h => h3 g t h⟩

/-- The invariants hold one event short of a click, with accepted events on both rotation gates. -/
theorem inv_nearCw : Inv (nearCw .pot (some 7)) where
  cfgWf := by decide
  fit := fit_of_forall (by decide) (by intro g; cases g <;> decide) (by intro g; cases g <;> decide)
  levelsAgree := by decide
  armedAway := by decide
  acceptedWasSeen := by intro g; cases g <;> decide
  detentWasSeen := by unfold Regs.detentWasSeen; decide

theorem atHome_beforePage : AtHome beforePage := ⟨rfl, rfl, rfl, rfl⟩

theorem witness_DecodeEncodeRoundTrip :
    (Instr.btnEdge 1 18446744073709551615).wf 64 = true ∧ (Instr.edgeA 0 1).wf 1 = true := by decide

theorem witness_DecodedWordsAreEncodings :
    (decode 64 0x0A = .instr (.edgeB 1 0) ∧ (Instr.edgeB 1 0).ts? = some 0 ∧ 0x0A < 2 ^ (64 + 8)) ∧
    (decode 32 0xFFFFFFFF0A = .instr (.edgeB 1 4294967295) ∧ 0xFFFFFFFF0A < 2 ^ (32 + 8)) ∧
    (decode 64 0x7C = .instr (.page .pot { menu := true, pot := true, btn := true }) ∧
      wordCmd 0xFF7C = wordCmd 0x7C ∧
      (Instr.page .pot { menu := true, pot := true, btn := true }).ts? = none) := by decide

theorem witness_StepRunsTheDecodedOperation :
    (tc0.setNextInput (InPorts.event 0x0A)).inputs = [{ rst := false, evValid := true, evWord := 0x0A }] ∧
    decode tc0.cfg.tsWidth 0x0A = .instr (.edgeB 1 0) := by decide

theorem witness_DeliveredTableWordRunsItsOperation :
    decode (atWidth 32 tc0).cfg.tsWidth (tableWord 40 0x10A) = .instr (.edgeB 1 1) ∧ tc0.cfg.tsWidth = 64 ∧
    decodeTableWord 72 0x7C = some (.page .pot { menu := true, pot := true, btn := true }) ∧
    decodeTableWord 8 0 = some .nop := by decide

theorem witness_IllegalWordIsReportedAndChangesNothing :
    (tc0.setNextInput (InPorts.event 0xFF)).inputs = [{ rst := false, evValid := true, evWord := 0xFF }] ∧
    decode tc0.cfg.tsWidth 0xFF = .illegal .reservedOp := by decide

theorem witness_IdleCycleHoldsTheRegisters :
    tc0.inputs = [] ∧
    (tc0.setNextInput InPorts.idle).inputs = [{ rst := false, evValid := false, evWord := 0 }] := by decide

theorem witness_ResetCycleResetsEveryRegister :
    (beforePage.withInputs [{ rst := true, evValid := true, evWord := 0x3C }]).inputs =
      [{ rst := true, evValid := true, evWord := 0x3C }] := by decide

theorem witness_NoOutputIsLatched :
    let s := afterPress
    let s' := afterPress.present .illegal { tr := 2, det := 3, reject := 1 }
    s.cfg = s'.cfg ∧ s.regs = s'.regs ∧ s.inputs = s'.inputs ∧ s ≠ s' := by decide

theorem witness_OutputsDependOnNoLaterInput :
    let s := tc0.withInputs [InPorts.event 0x0A, InPorts.event 0x09]
    let s' := tc0.withInputs [InPorts.event 0x0A, InPorts.event 0x02]
    s.cfg = s'.cfg ∧ s.regs = s'.regs ∧ s.inputs.take 1 = s'.inputs.take 1 ∧ s ≠ s' := by decide

theorem witness_EveryStepKeepsTheInvariants :
    Inv (nearCw .pot (some 7)) ∧ ∃ u, step (nearCw .pot (some 7)) = .next u := ⟨inv_nearCw, _, step_eq _⟩

/-- A run with a coming timestamp, a seen one and an accepted one. -/
theorem witness_EveryStepKeepsRawAtOrAfterAccepted :
    let s := afterPress.withInputs [InPorts.event 0x00000000004F58800B]
    MonoInv s ∧ timestamps s.cfg.tsWidth s.inputs = [5200000] ∧ ∃ u, step s = .next u := by
  have h : timestamps 64 [InPorts.event 0x00000000004F58800B] = [5200000] := by decide
  refine ⟨⟨?_, ?_, ?_, ?_⟩, h, _, step_eq _⟩
  · show List.Pairwise _ (timestamps 64 [InPorts.event 0x00000000004F58800B])
    rw [h]; exact List.pairwise_singleton _ _
  · intro g; cases g <;> decide
  · intro g r t hr ht
    have ht' : t ∈ timestamps 64 [InPorts.event 0x00000000004F58800B] := ht
    rw [h, List.mem_singleton] at ht'
    subst ht'
    have hb : ∀ g, ∀ r ∈ afterPress.regs.lastRaw.get g, r ≤ 5200000 := by intro g; cases g <;> decide
    exact hb g r hr
  · intro g a r ha hr
    have hb : ∀ g, ∀ a ∈ afterPress.regs.lastAcc.get g, ∀ r ∈ afterPress.regs.lastRaw.get g, a ≤ r := by
      intro g; cases g <;> decide
    exact hb g a ha r hr

theorem witness_SameStateEdgeChangesNoRegister : Inv (nearCw .pot (some 7)) := inv_nearCw

theorem witness_EachPinCompletesOneDirection :
    (nearCw .menu none).regs.levelsAgree ∧ (nearCw .menu none).regs.armed = .pos ∧
    (nearCcw .menu none).regs.levelsAgree ∧ (nearCcw .menu none).regs.armed = .neg := by decide

theorem witness_DetentsArriveAtHome :
    ∃ u, exec (.edgeA 0 5) (nearCw .menu none) = .next u ∧ u.strobes.det ≠ 0 := ⟨_, exec_eq _ _, by decide⟩

theorem witness_LastDetentTimestampFollowsTheDetents :
    (∃ u, step ((nearCw .menu none).withFetchWord 72 0x501) = .next u ∧ u.strobes.det ≠ 0) ∧
    ((nearCw .menu none).withFetchWord 72 0x501).nextInput.rst = false ∧
    (∃ u, step (tc0.withFetchWord 72 0x501) = .next u ∧ u.strobes.det = 0) ∧
    (tc0.withFetchWord 72 0x501).nextInput.rst = false :=
  ⟨⟨_, step_eq _, by decide⟩, by decide, ⟨_, step_eq _, by decide⟩, by decide⟩

theorem witness_TheDocumentsSequences : AtHome beforePage := atHome_beforePage

theorem witness_ArmedDecoderCountsFourQuarterSteps : tc0.regs = Regs.reset := by decide

/-- One event before, the same-state edge, one event after. -/
theorem witness_SameStateEventsCanBeDeleted :
    Inv (nearCw .pot (some 7)) ∧
    ∃ m : State, Sys2Proof.core.run 1 ((nearCw .pot (some 7)).withInputs [InPorts.event 0x0A]) = .next m ∧
      (InPorts.event 0x0A).delivered (nearCw .pot (some 7)).cfg.tsWidth = some (edgeInstr .b (m.regs.level .b) 0) :=
  ⟨inv_nearCw, _, rfl, by decide⟩

theorem witness_RawEventsAreJudgedAgainstTheLastAccepted :
    (∃ u, exec (.btnEdge 0 5199999) afterPress = .next u ∧ u.strobes.reject = 1) ∧
    (∃ u, exec (edgeInstr .b 0 10006) (nearCcw .pot (some 7)) = .next u ∧ u.strobes.det ≠ 0 ∧ u.strobes.reject = 1) :=
  ⟨⟨_, exec_eq _ _, by decide⟩, _, exec_eq _ _, by decide⟩

theorem witness_RawEqualsAcceptedAfterAnAccept :
    (∃ u, exec (.btnEdge 0 5200000) afterPress = .next u ∧ u.strobes.reject = 0) ∧
    (∃ u, exec (.btnEdge 0 5000000) afterPress = .next u ∧ u.strobes.reject = 1) ∧
    CompletesClick .b 0 (nearCcw .pot (some 7)).regs ∧
    (∃ u, exec (edgeInstr .b 0 10006) (nearCcw .pot (some 7)) = .next u ∧ u.strobes.reject = 1) ∧
    (∃ u, exec (edgeInstr .b 0 10007) (nearCcw .pot (some 7)) = .next u ∧ u.strobes.reject = 0) :=
  ⟨⟨_, exec_eq _ _, by decide⟩, ⟨_, exec_eq _ _, by decide⟩, by unfold CompletesClick; decide,
    ⟨_, exec_eq _ _, by decide⟩, _, exec_eq _ _, by decide⟩

theorem witness_RejectedEventKeepsTheDecodersWrites :
    (∃ u, exec (.btnEdge 0 5000000) afterPress = .next u ∧ u.strobes.reject = 1) ∧
    (∃ u, exec (.edgeA 0 15006) (nearCw .menu (some 7)) = .next u ∧ u.strobes.reject = 1) :=
  ⟨⟨_, exec_eq _ _, by decide⟩, _, exec_eq _ _, by decide⟩

/-- The fastest accepted detent of stream `MENU` (vector V10), and the interval parameter is at least 1. -/
theorem witness_RotationRecordIsTheMeasuredSpeed :
    (∃ u, exec (.edgeA 0 15007) (nearCw .menu (some 7)) = .next u ∧ u.out = .rot .cw .menu 66 100 15007) ∧
    1 ≤ (nearCw .menu (some 7)).cfg.minInterval.get (streamGate .menu) :=
  ⟨⟨_, exec_eq _ _, by decide⟩, by decide⟩

theorem witness_ReportedSpeedHasACeiling :
    (∃ u, exec (.edgeA 0 15007) (nearCw .menu (some 7)) = .next u ∧ u.out = .rot .cw .menu 66 100 15007) ∧
    1 ≤ (nearCw .menu (some 7)).cfg.minInterval.get (streamGate .menu) :=
  witness_RotationRecordIsTheMeasuredSpeed

/-- The thresholds 0, 1, 1000 and 1001, each with a record, on a gate whose interval is 0. -/
theorem witness_TierDoesNotDependOnTruncation :
    [0, 1, 1000, 1001].map (fun threshold =>
      (next? (exec (.edgeA 0 1007)
        { nearCw .menu (some 7) with
          cfg := { tsWidth := 64, minInterval := { menu := 0, pot := 0, btn := 0 }, speedThreshold := threshold } })).map (·.out)) =
      [some (.rot .cw .menu 1000 100 1007), some (.rot .cw .menu 1000 100 1007),
       some (.rot .cw .menu 1000 100 1007), some (.rot .cw .menu 1000 10 1007)] := by decide

theorem witness_FirstDetentOfAClearedGateIsSlow :
    CompletesClick .a 0 (nearCw .pot none).regs ∧
    (nearCw .pot none).regs.lastAcc.get (streamGate (nearCw .pot none).regs.rotStream) = none ∧
    1 ≤ (nearCw .pot none).cfg.speedThreshold :=
  ⟨by unfold CompletesClick; decide, by decide, by decide⟩

/-- Two button events, both forwarded, exactly the interval apart. -/
theorem witness_ForwardedEventsAreSpaced :
    let s := tc0.withInputs [InPorts.event 0x00000000004C4B4003, InPorts.event 0x00000000004F58800B]
    (∀ c ∈ s.inputs, c.rst = false ∧ c.clears s.cfg.tsWidth .btn = false) ∧
    (forwarded (portTrace 2 s)).filterMap (OutRec.tsFrom .btn) = [5000000, 5200000] := by decide

theorem witness_GatesAreIndependent :
    let b := afterPress
    let b' := afterPress.writeDecoder 1 0 2 .pos
    let r := nearCw .menu (some 7)
    let r' := (nearCw .menu (some 7)).writeLastAcc .btn (some 9)
    (b.cfg = b'.cfg ∧ b.regs.lastAcc.btn = b'.regs.lastAcc.btn ∧ b ≠ b') ∧
    (r.cfg = r'.cfg ∧ r.regs.levelA = r'.regs.levelA ∧ r.regs.levelB = r'.regs.levelB ∧
      r.regs.lastState = r'.regs.lastState ∧ r.regs.armed = r'.regs.armed ∧ r.regs.rotStream = r'.regs.rotStream ∧
      r.regs.lastAcc.get .menu = r'.regs.lastAcc.get .menu ∧ r ≠ r') := by decide

theorem witness_PageDutyLeavesNoStaleInterval :
    MeetsPageDuty .potAdjust (.page .pot { menu := false, pot := true, btn := false }) ∧
    MeetsPageDuty .mainSelect (.page .menu { menu := true, pot := true, btn := true }) :=
  ⟨⟨_, rfl, rfl⟩, ⟨_, rfl, rfl⟩⟩

/-- One cycle for each clause of the table of writers. -/
theorem witness_WritersOfTheRegisters :
    [0x09, 0x0A, 0x03, 0x7C, 0x00, 0x13].map (fun w => (tc0.setNextInput (InPorts.event w)).nextAction) =
      [.event (.edgeA 1 0), .event (.edgeB 1 0), .event (.btnEdge 0 0),
       .event (.page .pot { menu := true, pot := true, btn := true }), .event .nop, .illegal .edgeBitsSet] ∧
    tc0.nextAction = .idle ∧
    (tc0.setNextInput { rst := true, evValid := false, evWord := 0 }).nextAction = .reset := by decide

theorem witness_NopsAndIdleCyclesCanBeDeleted :
    (InPorts.event 0x123456789ABCDEF000).action tc0.cfg.tsWidth = .event .nop ∧
    InPorts.idle.action tc0.cfg.tsWidth = .idle := by decide

theorem witness_AbnormalReportsExcludeEachOther :
    (∃ u, step (tc0.withFetchWord 72 0x01) = .next u ∧ u.strobes.tr = 0b10) ∧
    (∃ u, step (afterPress.withFetchWord 72 0x00000000004F587F03) = .next u ∧ u.strobes.reject = 1) ∧
    (∃ u, step (tc0.withFetchWord 72 0x13) = .next u ∧ u.out = .illegal) :=
  ⟨⟨_, step_eq _, by decide⟩, ⟨_, step_eq _, by decide⟩, _, step_eq _, by decide⟩

theorem witness_EveryRotationRecordIsLegal :
    ∃ u, step ((nearCw .menu (some 7)).withFetchWord 72 0x3A9F01) = .next u ∧ u.out = .rot .cw .menu 66 100 15007 :=
  ⟨_, step_eq _, by decide⟩

theorem witness_OutputWordFields : 5 < 2 ^ 3 ∧ (OutRec.btn 1 5).word 3 = 0x5000022 := by decide

/-- Two different states of one build, with the same status outputs. -/
theorem witness_StatusPortsShowEveryRegister :
    let s := nearCw .pot (some 7)
    let s' := s.present .illegal Strobes.quiet
    s.cfg = s'.cfg ∧ s.regs.fit s.cfg.tsWidth ∧ s'.regs.fit s'.cfg.tsWidth ∧ s.status = s'.status ∧ s ≠ s' ∧
      7 < 2 ^ s.cfg.tsWidth :=
  ⟨rfl, inv_nearCw.fit, inv_nearCw.fit, rfl, by decide, by decide⟩

theorem witness_ElapsedIsTheModularDifference :
    (4 ≤ 9 ∧ 9 - 4 < 2 ^ 8) ∧ (4 < 9 ∧ 9 - 4 < 2 ^ 8) ∧ elapsed 8 4 9 = 5 ∧ elapsed 8 9 4 = 251 := by decide

/-- A build of 32 bits, one lap and 100 µs after the accepted event, on the button gate and on a rotation gate; and an
accepted detent 11 000 µs later, across the wrap. -/
theorem witness_WrappingTimestampsKeepTheElapsedTime :
    let b := atWidth 32 afterPress
    let r := atWidth 32 (nearCw .pot (some 4294962296))
    5000000 ≤ 4299967396 ∧ b.regs.lastAcc.btn = some (5000000 % 2 ^ b.cfg.tsWidth) ∧
    4294962296 ≤ 8589929692 ∧ CompletesClick .a 0 r.regs ∧
    r.regs.lastAcc.get (streamGate r.regs.rotStream) = some (4294962296 % 2 ^ r.cfg.tsWidth) ∧
    (∃ u, exec (edgeInstr .a 0 (8589929692 % 2 ^ r.cfg.tsWidth)) r = .next u ∧ u.strobes.reject = 1) ∧
    4294962296 ≤ 4294973296 ∧
    (∃ u, exec (edgeInstr .a 0 (4294973296 % 2 ^ r.cfg.tsWidth)) r = .next u ∧ u.strobes.reject = 0) :=
  ⟨by decide, by decide, by decide, by unfold CompletesClick; decide, by decide, ⟨_, exec_eq _ _, by decide⟩, by decide,
    _, exec_eq _ _, by decide⟩

/-- Three net clockwise quarter-steps, and the step that completes the click. -/
theorem witness_EveryStepKeepsTheCount :
    CountsWith (nearCw .pot (some 7)).regs { a := 1, b := 0, sum := 3 } ∧
    ∃ u, step ((nearCw .pot (some 7)).withFetchWord 72 0x501) = .next u ∧ u.strobes.det ≠ 0 :=
  ⟨⟨by decide, by decide, by decide, by decide⟩, _, step_eq _, by decide⟩

theorem witness_StepToReachesItsTarget :
    (nearCw .pot none).regs.levelsAgree ∧
    (AsmLine.stepTo 3 18446744073709551615).wf (nearCw .pot none).cfg.tsWidth (nearCw .pot none).regs.lastState = true := by
  decide

theorem witness_DetentLinesAreOneClick :
    AtHome beforePage ∧
    (AsmLine.detentCw 18446744073709551612 1).wf beforePage.cfg.tsWidth beforePage.regs.lastState = true ∧
    (AsmLine.detentCcw 0 0).wf beforePage.cfg.tsWidth beforePage.regs.lastState = true :=
  ⟨atHome_beforePage, by decide⟩

end Sys2Proof.Tests
end

section
/-! Which event may write which register (10_state.md R21, R36): the frames of the gate procedure, of the edge procedure
and of a whole cycle, and the two statements that follow from them. -/

namespace Sys2Proof

/-- Two families that differ at the button gate at most. -/
theorem PerGate.eq_with_btn {α : Type} {x y : PerGate α} (h : ∀ g, g ≠ .btn → x.get g = y.get g) :
    x = { y with btn := x.btn } := by
  apply PerGate.ext_get
  intro g
  cases g with
  | menu => exact h .menu (by decide)
  | pot => exact h .pot (by decide)
  | btn => rfl

namespace Machine

/-! ### The gate procedure -/

theorem GateSpec.other_gates {ev : RawEvent} {t : Nat} {s u : State} (h : GateSpec ev t s u) {g : Gate}
    (hg : g ≠ ev.gate) :
    u.regs.lastRaw.get g = s.regs.lastRaw.get g ∧ u.regs.lastAcc.get g = s.regs.lastAcc.get g := by
  have hacc : u.regs.lastAcc = s.regs.lastAcc ∨ u.regs.lastAcc = s.regs.lastAcc.set ev.gate (some t) := by
    by_cases hr : Rejected s.cfg ev.gate (s.regs.lastAcc.get ev.gate) t
    · exact .inl (h.reject hr).1
    · exact .inr (h.accept hr).1
  refine ⟨by rw [h.seen, PerGate.get_set_of_ne _ _ hg], ?_⟩
  obtain hacc | hacc := hacc
  · rw [hacc]
  · rw [hacc, PerGate.get_set_of_ne _ _ hg]

theorem GateSpec.lastAcc_of_reject {ev : RawEvent} {t : Nat} {s u : State} (h : GateSpec ev t s u)
    (hr : u.strobes.reject = 1) : u.regs.lastAcc = s.regs.lastAcc := by
  by_cases hc : Rejected s.cfg ev.gate (s.regs.lastAcc.get ev.gate) t
  · exact (h.reject hc).1
  · obtain ⟨-, -, h0⟩ := h.accept hc
    exact absurd (h0.symm.trans hr) (by decide)

/-! ### The edge procedure -/

theorem EdgeSpec.completesClick_iff {pin : Pin} {level : Bit} {t : Nat} {s u : State} (h : EdgeSpec pin level t s u) :
    CompletesClick pin level s.regs ↔ u.strobes.det ≠ 0 := by
  constructor
  · intro hc
    rw [(h.detent hc).1]
    split <;> decide
  · intro hd
    by_contra hc
    exact hd (h.noDetent hc).1

/-- What an edge event may write beside the decoder's registers: the rows `EDGE_A` and `EDGE_B` of 10_state.md R36. -/
theorem EdgeSpec.gate_writes {pin : Pin} {level : Bit} {t : Nat} {s u : State} (h : EdgeSpec pin level t s u) :
    u.regs.rotStream = s.regs.rotStream ∧
    (u.strobes.det = 0 → u.regs.lastDetentTs = s.regs.lastDetentTs ∧ u.regs.lastRaw = s.regs.lastRaw ∧
      u.regs.lastAcc = s.regs.lastAcc) ∧
    (u.strobes.reject = 1 → u.regs.lastAcc = s.regs.lastAcc) ∧
    (∀ g, g ≠ streamGate s.regs.rotStream →
      u.regs.lastRaw.get g = s.regs.lastRaw.get g ∧ u.regs.lastAcc.get g = s.regs.lastAcc.get g) := by
  refine ⟨h.rotStream, ?_⟩
  by_cases hc : CompletesClick pin level s.regs
  · obtain ⟨-, -, hgate⟩ := h.detent hc
    exact ⟨fun hd => absurd hd (h.completesClick_iff.mp hc), hgate.lastAcc_of_reject, fun _ => hgate.other_gates⟩
  · obtain ⟨-, -, -, hts, hacc, hraw⟩ := h.noDetent hc
    exact ⟨fun _ => ⟨hts, hraw, hacc⟩, fun _ => hacc, fun _ _ => ⟨by rw [hraw], by rw [hacc]⟩⟩

/-! ### The operations -/

theorem execState_edgeA_spec (level : Bit) (ts : Nat) (s : State) :
    EdgeSpec .a level ts s (execState (.edgeA level ts) s) := decodeEdge_spec .a level ts s

theorem execState_edgeB_spec (level : Bit) (ts : Nat) (s : State) :
    EdgeSpec .b level ts s (execState (.edgeB level ts) s) := decodeEdge_spec .b level ts s

theorem execState_btnEdge_frame (level : Bit) (ts : Nat) (s : State) :
    (execState (.btnEdge level ts) s).regs =
      { s.regs with
        lastAcc := (execState (.btnEdge level ts) s).regs.lastAcc
        lastRaw := (execState (.btnEdge level ts) s).regs.lastRaw } :=
  (gateEvent_frame (.button level) ts (s.present .none Strobes.quiet)).regs

theorem execState_btnEdge_spec (level : Bit) (ts : Nat) (s : State) :
    GateSpec (.button level) ts s (execState (.btnEdge level ts) s) :=
  (gateEvent_spec (.button level) ts (s.present .none Strobes.quiet) rfl rfl).congr rfl rfl rfl

/-- The row `BTN_EDGE` of 10_state.md R36. -/
theorem execState_btnEdge_writes (level : Bit) (ts : Nat) (s : State) :
    (execState (.btnEdge level ts) s).regs =
      { s.regs with
        lastRaw := { s.regs.lastRaw with btn := (execState (.btnEdge level ts) s).regs.lastRaw.btn }
        lastAcc := { s.regs.lastAcc with btn := (execState (.btnEdge level ts) s).regs.lastAcc.btn } } := by
  have hspec := execState_btnEdge_spec level ts s
  rw [← PerGate.eq_with_btn fun g hg => (hspec.other_gates hg).1,
    ← PerGate.eq_with_btn fun g hg => (hspec.other_gates hg).2]
  exact execState_btnEdge_frame level ts s

theorem clearNamed_get (mask : PerGate Bool) (acc : PerGate (Option Nat)) (g : Gate) :
    (clearNamed mask acc).get g = if mask.get g then none else acc.get g := by
  cases g <;> rfl

/-- `level_a` is written by `EDGE_A` only (10_state.md R21). -/
theorem execState_levelA_of_ne {i : Instr} (h : ∀ level ts, i ≠ .edgeA level ts) (s : State) :
    (execState i s).regs.levelA = s.regs.levelA := by
  cases i with
  | nop => rfl
  | edgeA level ts => exact absurd rfl (h level ts)
  | edgeB level ts => exact (execState_edgeB_spec level ts s).levelA
  | btnEdge level ts => rw [execState_btnEdge_frame]
  | page stream mask => rfl

/-- `level_b` is written by `EDGE_B` only (10_state.md R21). -/
theorem execState_levelB_of_ne {i : Instr} (h : ∀ level ts, i ≠ .edgeB level ts) (s : State) :
    (execState i s).regs.levelB = s.regs.levelB := by
  cases i with
  | nop => rfl
  | edgeA level ts => exact (execState_edgeA_spec level ts s).levelB
  | edgeB level ts => exact absurd rfl (h level ts)
  | btnEdge level ts => rw [execState_btnEdge_frame]
  | page stream mask => rfl

/-! ### A cycle, by what its ports ask -/

theorem cycleState_of_event {s : State} {i : Instr} (h : s.nextAction = .event i) :
    cycleState s = execState i s.dropInput := by simp [cycleState, h]

theorem cycleState_of_illegal {s : State} {why : IllegalWord} (h : s.nextAction = .illegal why) :
    cycleState s = s.dropInput.reportIllegal := by simp [cycleState, h]

theorem cycleState_of_idle {s : State} (h : s.nextAction = .idle) : cycleState s = s.dropInput.idleCycle := by
  simp [cycleState, h]

theorem cycleState_of_reset {s : State} (h : s.nextAction = .reset) : cycleState s = s.dropInput.resetCycle := by
  simp [cycleState, h]

/-! ### The statements -/

/-- Settles O22: the operations but the edge event of a pin keep its level, and the edge procedure's relation says what
that event writes. -/
theorem levelsAreWrittenByTheirOwnPin : Obligations.LevelsAreWrittenByTheirOwnPin := by
  intro i s
  refine ⟨execState i s, exec_eq i s, fun hne => ?_, fun hne => ?_, ?_, ?_⟩
  · by_contra hi
    exact hne (execState_levelA_of_ne (fun level ts h => hi ⟨level, ts, h⟩) s)
  · by_contra hi
    exact hne (execState_levelB_of_ne (fun level ts h => hi ⟨level, ts, h⟩) s)
  · rintro level ts rfl
    have hspec := execState_edgeA_spec level ts s
    exact ⟨hspec.levelA, hspec.lastState⟩
  · rintro level ts rfl
    have hspec := execState_edgeB_spec level ts s
    exact ⟨hspec.levelB, hspec.lastState⟩

/-- Settles O48, row by row of the table of 10_state.md R36; taking the input cycle changes no register. -/
theorem writersOfTheRegisters : Obligations.WritersOfTheRegisters := by
  intro s
  refine ⟨cycleState s, step_eq s, fun level ts h => ?edgeA, fun level ts h => ?edgeB, fun level ts h => ?btnEdge,
    fun stream mask h => ?page, fun h => ?nop, fun why h => ?illegal, fun h => ?idle, fun h => ?reset⟩
  case edgeA =>
    rw [cycleState_of_event h]
    have hspec := execState_edgeA_spec level ts s.dropInput
    exact ⟨hspec.levelB, hspec.gate_writes⟩
  case edgeB =>
    rw [cycleState_of_event h]
    have hspec := execState_edgeB_spec level ts s.dropInput
    exact ⟨hspec.levelA, hspec.gate_writes⟩
  case btnEdge =>
    rw [cycleState_of_event h]
    exact ⟨execState_btnEdge_writes level ts s.dropInput,
      (execState_btnEdge_spec level ts s.dropInput).lastAcc_of_reject⟩
  case page =>
    rw [cycleState_of_event h]
    exact ⟨rfl, clearNamed_get mask s.regs.lastAcc⟩
  case nop => rw [cycleState_of_event h]; rfl
  case illegal => rw [cycleState_of_illegal h]; rfl
  case idle => rw [cycleState_of_idle h]; rfl
  case reset => rw [cycleState_of_reset h]; rfl

end Machine

end Sys2Proof
end

section
/-! The combined state and the transition table on all their arguments (40_quadrature_decoder.md R100, R101), and the
two statements that follow. -/

namespace Sys2Proof.Machine

/-! ### The combined state -/

/-- The shift by one place is the factor 2, and the level of pin B fills the free bit. -/
theorem combined_toNat (a b : Bit) : (combined a b).toNat = 2 * a.toNat + b.toNat := by
  obtain rfl | rfl := a.eq_zero_or_eq_one <;> obtain rfl | rfl := b.eq_zero_or_eq_one <;> rfl

/-! ### The transition table -/

theorem tt_eq_pos_iff (p n : Combined) :
    tt p n = .pos ↔ (p = 0 ∧ n = 1) ∨ (p = 1 ∧ n = 3) ∨ (p = 3 ∧ n = 2) ∨ (p = 2 ∧ n = 0) := by
  unfold tt
  split
  case isTrue hcw => exact iff_of_true rfl hcw
  case isFalse hcw =>
    refine iff_of_false ?_ hcw
    split <;> decide

/-- No pair stands in both directions, so the order of the table's two tests does not matter. -/
theorem tt_eq_neg_iff (p n : Combined) :
    tt p n = .neg ↔ (p = 0 ∧ n = 2) ∨ (p = 2 ∧ n = 3) ∨ (p = 3 ∧ n = 1) ∨ (p = 1 ∧ n = 0) := by
  revert p n; decide

/-- The counter-clockwise pairs are the clockwise pairs reversed (40_quadrature_decoder.md R101). -/
theorem tt_eq_neg_iff_reversed_eq_pos (p n : Combined) : tt p n = .neg ↔ tt n p = .pos := by
  rw [tt_eq_neg_iff, tt_eq_pos_iff]
  tauto

/-- A valid transition changes exactly one bit: the two values differ in bit 0 alone or in bit 1 alone. -/
theorem tt_ne_zero_iff (p n : Combined) : tt p n ≠ .zero ↔ p ^^^ n = 1 ∨ p ^^^ n = 2 := by
  revert p n; decide

@[simp] theorem tt_self (p : Combined) : tt p p = .zero := by
  by_contra h
  have hbit := (tt_ne_zero_iff p p).mp h
  rw [BitVec.xor_self] at hbit
  exact absurd hbit (by decide)

/-! ### The statements -/

/-- Settles O19: the value and the bits for all levels, then the four pairs and home by evaluation. -/
theorem combinedStateOfTheLevels : Obligations.CombinedStateOfTheLevels :=
  ⟨combined_toNat, combined_bits, rfl, rfl, rfl, rfl, rfl⟩

/-- Settles O20: the clockwise, counter-clockwise and double-change pairs by evaluation, the rest by the table's laws. -/
theorem transitionTable : Obligations.TransitionTable := by
  have hcw : tt 0 1 = .pos ∧ tt 1 3 = .pos ∧ tt 3 2 = .pos ∧ tt 2 0 = .pos := by decide
  have hccw : tt 0 2 = .neg ∧ tt 2 3 = .neg ∧ tt 3 1 = .neg ∧ tt 1 0 = .neg := by decide
  have hboth : tt 0 3 = .zero ∧ tt 3 0 = .zero ∧ tt 1 2 = .zero ∧ tt 2 1 = .zero := by decide
  exact ⟨hcw, hccw, tt_self, hboth, tt_eq_neg_iff_reversed_eq_pos, tt_ne_zero_iff⟩

end Sys2Proof.Machine
end

section
/-! The decoder is the inverse of the encoder on command byte and timestamp field (30_encoding.md R70 to R76), the
illegal command bytes, and the statements about event words. -/

namespace Sys2Proof

/-! ### The rows of the opcode table -/

/-- A command byte that selects the row of an edge is the row's pattern with the level in bit 3. -/
theorem cmd_of_selects_edge_row : ∀ r ∈ [rowEdgeA, rowEdgeB, rowBtnEdge], ∀ cmd : BitVec 8,
    r.selects cmd = true → cmd = cmdBit (cmdLevel cmd) 3 ||| r.pattern := by
  decide

theorem cmd_of_selects_rowNop (cmd : BitVec 8) (h : rowNop.selects cmd = true) : cmd = encodeCmd .nop := by
  revert cmd; decide

theorem cmd_of_selects_rowPage (cmd : BitVec 8) (h : rowPage.selects cmd = true) :
    cmd = encodeCmd (.page (cmdStream cmd) (cmdMask cmd)) := by
  revert cmd; decide

/-! ### Words that decode to an operation -/

/-- Of the rows, the command byte of an operation selects its own. -/
theorem selects_encodeCmd_iff (i : Instr) {r : OpRow} (hr : r ∈ opTable) :
    r.selects (encodeCmd i) = true ↔ r = Laws.OpcodeRow.rowOf i := by
  have hrow : Laws.OpcodeRow.Statement i := by
    cases i with
    | nop => exact Laws.OpcodeRow.nop
    | edgeA level ts => exact Laws.OpcodeRow.edgeA level ts
    | edgeB level ts => exact Laws.OpcodeRow.edgeB level ts
    | btnEdge level ts => exact Laws.OpcodeRow.btnEdge level ts
    | page stream mask => exact Laws.OpcodeRow.page stream mask
  rw [Laws.OpcodeRow.Statement, wordCmd_encode] at hrow
  have hmem : r ∈ [Laws.OpcodeRow.rowOf i] ↔ r.selects (encodeCmd i) = true := by
    rw [← hrow, List.mem_filter, and_iff_right hr]
  exact hmem.symm.trans List.mem_singleton

/-- The level stands in bit 3, which no pattern of an edge row sets. -/
theorem cmdLevel_encodeCmd (level : Bit) (ts : Nat) : cmdLevel (encodeCmd (.edgeA level ts)) = level ∧
    cmdLevel (encodeCmd (.edgeB level ts)) = level ∧ cmdLevel (encodeCmd (.btnEdge level ts)) = level := by
  have h : ∀ level, ∀ r ∈ [rowEdgeA, rowEdgeB, rowBtnEdge], cmdLevel (cmdBit level 3 ||| r.pattern) = level := by decide
  exact ⟨h level rowEdgeA (by simp), h level rowEdgeB (by simp), h level rowBtnEdge (by simp)⟩

theorem cmdFields_encodeCmd_page (stream : Stream) (mask : PerGate Bool) :
    cmdStream (encodeCmd (.page stream mask)) = stream ∧ cmdMask (encodeCmd (.page stream mask)) = mask := by
  obtain ⟨m, p, b⟩ := mask
  cases stream <;> cases m <;> cases p <;> cases b <;> decide

/-- The decoder reads the operation back from its command byte, with the timestamp of the word. -/
theorem decode_of_wordCmd_eq {tsWidth w : Nat} {i : Instr} (hcmd : wordCmd w = encodeCmd i)
    (hts : ∀ ts, i.ts? = some ts → wordTs tsWidth w = ts) : decode tsWidth w = .instr i := by
  have hrow (r : OpRow) (hr : r ∈ opTable) := selects_encodeCmd_iff i hr
  simp only [opTable, List.forall_mem_cons, List.not_mem_nil, false_implies, implies_true, and_true] at hrow
  simp only [decode, hcmd, hrow]
  cases i with
  | nop => rfl
  | edgeA level ts =>
    obtain ⟨hlevel, -, -⟩ := cmdLevel_encodeCmd level ts
    rw [hlevel, hts ts rfl]; rfl
  | edgeB level ts =>
    obtain ⟨-, hlevel, -⟩ := cmdLevel_encodeCmd level ts
    rw [hlevel, hts ts rfl]; rfl
  | btnEdge level ts =>
    obtain ⟨-, -, hlevel⟩ := cmdLevel_encodeCmd level ts
    rw [hlevel, hts ts rfl]; rfl
  | page stream mask =>
    obtain ⟨hstream, hmask⟩ := cmdFields_encodeCmd_page stream mask
    rw [hstream, hmask]; rfl

/-- The row that selects the command byte gives the operation its pattern. -/
theorem wordCmd_eq_of_decode {tsWidth w : Nat} {i : Instr} (h : decode tsWidth w = .instr i) :
    wordCmd w = encodeCmd i ∧ ∀ ts, i.ts? = some ts → wordTs tsWidth w = ts := by
  simp only [decode] at h
  split at h
  case isTrue hrow => cases h; exact ⟨cmd_of_selects_rowNop _ hrow, by simp [Instr.ts?]⟩
  split at h
  case isTrue hrow =>
    cases h; exact ⟨cmd_of_selects_edge_row rowEdgeA (by simp) _ hrow, fun ts hts => Option.some.inj hts⟩
  split at h
  case isTrue hrow =>
    cases h; exact ⟨cmd_of_selects_edge_row rowEdgeB (by simp) _ hrow, fun ts hts => Option.some.inj hts⟩
  split at h
  case isTrue hrow =>
    cases h; exact ⟨cmd_of_selects_edge_row rowBtnEdge (by simp) _ hrow, fun ts hts => Option.some.inj hts⟩
  split at h
  case isTrue hrow => cases h; exact ⟨cmd_of_selects_rowPage _ hrow, by simp [Instr.ts?]⟩
  cases h

/-- A well-formed operation's word has `EW` bits (30_encoding.md R70). -/
theorem encode_lt {tsWidth : Nat} {i : Instr} (h : i.wf tsWidth = true) : encode i < 2 ^ (tsWidth + 8) := by
  have hts := ts_lt_of_wf h
  have hcmd := (encodeCmd i).isLt
  rw [encode_eq_add, Nat.pow_add]
  omega

/-! ### Illegal words -/

/-- A word is illegal when no row selects its command byte, and the name of its illegality is a matter of that byte. -/
theorem decode_eq_illegal_iff {tsWidth w : Nat} {why : IllegalWord} : decode tsWidth w = .illegal why ↔
    (∀ r ∈ opTable, r.selects (wordCmd w) = false) ∧ illegalReason (wordCmd w) = why := by
  simp only [decode, opTable, List.forall_mem_cons, List.not_mem_nil, false_implies, implies_true, and_true]
  split_ifs <;> simp_all

/-- A field that lies in the command byte is that field of the command byte (30_encoding.md R70). -/
theorem slice_eq_slice_wordCmd {lo n : Nat} (h : lo + n ≤ 8) (w : Nat) :
    slice w lo n = slice (wordCmd w).toNat lo n := by
  have hdvd : 2 ^ (lo + n) ∣ 2 ^ 8 := Nat.pow_dvd_pow 2 h
  unfold slice wordCmd
  rw [BitVec.toNat_ofNat, ← Nat.mod_mul_right_div_self, ← Nat.mod_mul_right_div_self, ← Nat.pow_add,
    Nat.mod_mod_of_dvd w hdvd]

/-- The patterns of 30_encoding.md R75, on the 256 command bytes. -/
theorem illegalReason_patterns : ∀ cmd : BitVec 8,
    ((∀ r ∈ opTable, r.selects cmd = false) ∧ illegalReason cmd = .reservedOp ↔ 5 ≤ slice cmd.toNat 0 3) ∧
    ((∀ r ∈ opTable, r.selects cmd = false) ∧ illegalReason cmd = .nopBitsSet ↔
      slice cmd.toNat 0 3 = 0 ∧ slice cmd.toNat 3 5 ≠ 0) ∧
    ((∀ r ∈ opTable, r.selects cmd = false) ∧ illegalReason cmd = .edgeBitsSet ↔
      1 ≤ slice cmd.toNat 0 3 ∧ slice cmd.toNat 0 3 ≤ 3 ∧ slice cmd.toNat 4 4 ≠ 0) ∧
    ((∀ r ∈ opTable, r.selects cmd = false) ∧ illegalReason cmd = .pageBit7Set ↔
      slice cmd.toNat 0 3 = 4 ∧ slice cmd.toNat 7 1 = 1) := by
  decide

/-! ### The statements about event words -/

/-- Settles O1: the word of an operation has its command byte and its timestamp, and by these the decoder reads it. -/
theorem decodeEncodeRoundTrip : Obligations.DecodeEncodeRoundTrip := by
  intro tsWidth i hwf
  refine ⟨decode_of_wordCmd_eq (wordCmd_encode i) fun ts hts => ?_, encode_lt hwf⟩
  rw [wordTs_encode hwf, hts, Option.getD_some]

/-- Settles O2: a decoded word has the command byte and the timestamp of its operation, which make up a word of `EW`
bits; without a timestamp operand the command byte alone decides. -/
theorem decodedWordsAreEncodings : Obligations.DecodedWordsAreEncodings := by
  intro tsWidth w i hdec
  obtain ⟨hcmd, hts⟩ := wordCmd_eq_of_decode hdec
  refine ⟨wf_of_decode hdec, hcmd, fun ts hi => ⟨hts ts hi, fun hw => ?_⟩, fun hi w' hw' => ?_⟩
  · rw [encode_eq_add, hi, Option.getD_some, ← hts ts hi, ← hcmd, word_of_parts hw]
  · exact decode_of_wordCmd_eq (hw'.trans hcmd) (by simp [hi])

/-- Settles O3: legality and the four names depend on the command byte alone, and its fields are those of the word. -/
theorem illegalWordsAreThePatternsOfR75 : Obligations.IllegalWordsAreThePatternsOfR75 := by
  intro tsWidth w
  rw [slice_eq_slice_wordCmd (lo := 0) (n := 3) (by decide), slice_eq_slice_wordCmd (lo := 3) (n := 5) (by decide),
    slice_eq_slice_wordCmd (lo := 4) (n := 4) (by decide), slice_eq_slice_wordCmd (lo := 7) (n := 1) (by decide)]
  simp only [decode_eq_illegal_iff]
  obtain ⟨hreserved, hnop, hedge, hpage⟩ := illegalReason_patterns (wordCmd w)
  exact ⟨hreserved, hnop, hedge, hpage, fun ⟨_, h, _⟩ => h, fun h => ⟨_, h, rfl⟩⟩

/-- Settles O4, by evaluating the table on the 256 command bytes. -/
theorem opcodeRowsAreExclusive : Obligations.OpcodeRowsAreExclusive := by
  unfold Obligations.OpcodeRowsAreExclusive
  constructor <;> decide

/-- Settles O5, by evaluating the decoder on the six words. -/
theorem specWordsDecode : Obligations.SpecWordsDecode := by
  unfold Obligations.SpecWordsDecode
  decide

/-- Settles O6: the word is the timestamp times 256 plus the command byte. -/
theorem encodedWordValues : Obligations.EncodedWordValues := by
  have hedge : ∀ level : Bit, ∀ r ∈ [rowEdgeA, rowEdgeB, rowBtnEdge],
    (cmdBit level 3 ||| r.pattern).toNat = level.toNat * 8 + r.pattern.toNat := by decide
  refine ⟨fun level ts => ⟨?_, ?_, ?_⟩, rfl, fun stream mask => ?_⟩
  · rw [encode_eq_add, encodeCmd, hedge level rowEdgeA (by simp)]; exact (Nat.add_assoc _ _ _).symm
  · rw [encode_eq_add, encodeCmd, hedge level rowEdgeB (by simp)]; exact (Nat.add_assoc _ _ _).symm
  · rw [encode_eq_add, encodeCmd, hedge level rowBtnEdge (by simp)]; exact (Nat.add_assoc _ _ _).symm
  · obtain ⟨m, p, b⟩ := mask
    cases stream <;> cases m <;> cases p <;> cases b <;> decide

end Sys2Proof
end

section
/-! What each operation and each cycle does, by its cases, and that nothing of it depends on the outputs of an earlier
cycle or on a later input (20_memory.md R52, R59); the statements about the step. -/

namespace Sys2Proof.Machine

/-! ### The two verdicts of the gate and the two ends of an edge event -/

theorem gateEvent_of_rejected {ev : RawEvent} {t : Nat} {s : State}
    (h : Rejected s.cfg ev.gate (s.regs.lastAcc.get ev.gate) t) :
    gateEvent ev t s = (s.writeLastRaw ev.gate (some t)).flagReject := by
  obtain ⟨-, heq⟩ | ⟨hn, -⟩ := gateEvent_cases ev t s
  · exact heq
  · exact absurd h hn

theorem gateEvent_of_not_rejected {ev : RawEvent} {t : Nat} {s : State}
    (h : ¬ Rejected s.cfg ev.gate (s.regs.lastAcc.get ev.gate) t) :
    gateEvent ev t s = ((s.writeLastRaw ev.gate (some t)).writeLastAcc ev.gate (some t)).emit
      (specOutput s.cfg (s.regs.lastAcc.get ev.gate) t ev) := by
  obtain ⟨hr, -⟩ | ⟨-, heq⟩ := gateEvent_cases ev t s
  · exact absurd hr h
  · exact heq

theorem decodeEdge_of_click {pin : Pin} {level : Bit} {t : Nat} {s : State} (h : CompletesClick pin level s.regs) :
    decodeEdge pin level t s = gateEvent (.detent s.regs.rotStream (dirOf s.regs.armed)) t
      ((decodedState pin level s s.regs.armed).writeLastDetentTs (some t)) := by
  obtain ⟨hn, -⟩ | ⟨-, -, heq⟩ := decodeEdge_cases pin level t s
  · exact absurd h hn
  · exact heq

theorem decodeEdge_of_not_click {pin : Pin} {level : Bit} {t : Nat} {s : State}
    (h : ¬ CompletesClick pin level s.regs) : decodeEdge pin level t s = decodedState pin level s .zero := by
  obtain ⟨-, heq⟩ | ⟨hc, -⟩ := decodeEdge_cases pin level t s
  · exact heq
  · exact absurd hc h

/-! ### Operations by kind -/

/-- An operation is `NOP`, an edge event, a button edge or a `PAGE`. -/
theorem instr_by_kind {motive : Instr → Prop} (nop : motive .nop)
    (edge : ∀ pin level ts, motive (edgeInstr pin level ts)) (btnEdge : ∀ level ts, motive (.btnEdge level ts))
    (page : ∀ stream mask, motive (.page stream mask)) (i : Instr) : motive i := by
  cases i with
  | nop => exact nop
  | edgeA level ts => exact edge .a level ts
  | edgeB level ts => exact edge .b level ts
  | btnEdge level ts => exact btnEdge level ts
  | page stream mask => exact page stream mask

theorem execState_edgeInstr (pin : Pin) (level : Bit) (ts : Nat) (s : State) :
    execState (edgeInstr pin level ts) s = decodeEdge pin level ts s := by cases pin <;> rfl

theorem execState_edge_spec (pin : Pin) (level : Bit) (ts : Nat) (s : State) :
    EdgeSpec pin level ts s (execState (edgeInstr pin level ts) s) :=
  execState_edgeInstr pin level ts s ▸ decodeEdge_spec pin level ts s

/-- A click is handed to the gate that the stream selects (40_quadrature_decoder.md R109). -/
theorem EdgeSpec.gateSpec_of_click {pin : Pin} {level : Bit} {t : Nat} {s u : State} (h : EdgeSpec pin level t s u)
    (hc : CompletesClick pin level s.regs) : GateSpec (.detent s.regs.rotStream (dirOf s.regs.armed)) t s u :=
  (h.detent hc).2.2

theorem execState_gateSpec_of_click {pin : Pin} {level : Bit} {s : State} (h : CompletesClick pin level s.regs)
    (ts : Nat) : GateSpec (.detent s.regs.rotStream (dirOf s.regs.armed)) ts s (execState (edgeInstr pin level ts) s) :=
  (execState_edge_spec pin level ts s).gateSpec_of_click h

theorem edgeInstr_ts? (pin : Pin) (level : Bit) (ts : Nat) : (edgeInstr pin level ts).ts? = some ts := by
  cases pin <;> rfl

/-! ### A cycle and the ports -/

theorem cycleState_keeps (s : State) : (cycleState s).cfg = s.cfg ∧ (cycleState s).inputs = s.inputs.tail := by
  cases h : s.nextAction with
  | reset => rw [cycleState_of_reset h]; exact ⟨rfl, rfl⟩
  | idle => rw [cycleState_of_idle h]; exact ⟨rfl, rfl⟩
  | event i => rw [cycleState_of_event h]; exact execState_keeps i s.dropInput
  | illegal why => rw [cycleState_of_illegal h]; exact ⟨rfl, rfl⟩

@[simp] theorem cycleState_cfg (s : State) : (cycleState s).cfg = s.cfg := (cycleState_keeps s).1
@[simp] theorem cycleState_inputs (s : State) : (cycleState s).inputs = s.inputs.tail := (cycleState_keeps s).2

/-- The state with other input cycles to come and other outputs of the last cycle. -/
def State.withPorts (s : State) (cs : List InPorts) (o : OutRec) (st : Strobes) : State :=
  { s with inputs := cs, out := o, strobes := st }

theorem eq_withPorts {s s' : State} (hc : s.cfg = s'.cfg) (hr : s.regs = s'.regs) :
    s' = s.withPorts s'.inputs s'.out s'.strobes := by
  obtain ⟨c, r, cs, o, st⟩ := s'
  cases hc
  cases hr
  rfl

theorem gateEvent_withInputs (ev : RawEvent) (t : Nat) (s : State) (cs : List InPorts) :
    gateEvent ev t (s.withInputs cs) = (gateEvent ev t s).withInputs cs := by
  by_cases h : Rejected s.cfg ev.gate (s.regs.lastAcc.get ev.gate) t
  · rw [gateEvent_of_rejected h, gateEvent_of_rejected (s := s.withInputs cs) h]; rfl
  · rw [gateEvent_of_not_rejected h, gateEvent_of_not_rejected (s := s.withInputs cs) h]; rfl

theorem decodeEdge_withPorts (pin : Pin) (level : Bit) (t : Nat) (s : State) (cs : List InPorts) (o : OutRec)
    (st : Strobes) : decodeEdge pin level t (s.withPorts cs o st) = (decodeEdge pin level t s).withInputs cs := by
  by_cases h : CompletesClick pin level s.regs
  · rw [decodeEdge_of_click h, decodeEdge_of_click (s := s.withPorts cs o st) h, ← gateEvent_withInputs]; rfl
  · rw [decodeEdge_of_not_click h, decodeEdge_of_not_click (s := s.withPorts cs o st) h]; rfl

/-- An operation reads no port: not the coming cycles, which it hands on, nor the outputs of the last cycle. -/
theorem execState_withPorts (i : Instr) (s : State) (cs : List InPorts) (o : OutRec) (st : Strobes) :
    execState i (s.withPorts cs o st) = (execState i s).withInputs cs := by
  cases i using instr_by_kind with
  | nop => rfl
  | edge pin level ts => rw [execState_edgeInstr, execState_edgeInstr, decodeEdge_withPorts]
  | btnEdge level ts => exact gateEvent_withInputs _ _ (s.present .none Strobes.quiet) cs
  | page stream mask => rfl

/-- A cycle reads its own input ports, the parameters and the registers. -/
theorem cycleState_congr {s s' : State} (hc : s.cfg = s'.cfg) (hr : s.regs = s'.regs)
    (hi : s.nextInput = s'.nextInput) : cycleState s' = (cycleState s).withInputs s'.inputs.tail := by
  have hact : s'.nextAction = s.nextAction := by rw [State.nextAction, State.nextAction, hc, hi]
  have hdrop : s'.dropInput = s.dropInput.withPorts s'.inputs.tail s'.out s'.strobes :=
    eq_withPorts (s := s.dropInput) (s' := s'.dropInput) hc hr
  cases h : s.nextAction with
  | reset => rw [cycleState_of_reset h, cycleState_of_reset (hact.trans h), hdrop]; rfl
  | idle => rw [cycleState_of_idle h, cycleState_of_idle (hact.trans h), hdrop]; rfl
  | event i => rw [cycleState_of_event h, cycleState_of_event (hact.trans h), hdrop, execState_withPorts]
  | illegal why => rw [cycleState_of_illegal h, cycleState_of_illegal (hact.trans h), hdrop]; rfl

/-! ### Runs -/

theorem portTrace_succ (n : Nat) (s : State) :
    portTrace (n + 1) s = ((cycleState s).out, (cycleState s).strobes) :: portTrace n (cycleState s) := by
  rw [portTrace, step_eq]

theorem portTrace_add (m n : Nat) (s : State) :
    portTrace (m + n) s = portTrace m s ++ portTrace n (cycleState^[m] s) := by
  induction m generalizing s with
  | zero => rw [Nat.zero_add]; rfl
  | succ m ih => rw [Nat.add_right_comm, portTrace_succ, ih, portTrace_succ]; rfl

theorem run_succ_of_next (M : Host.Core) (n : Nat) {s u : M.State} (h : M.step s = .next u) :
    M.run (n + 1) s = M.run n u := by
  rw [Host.Core.run, h]

theorem run_eq (n : Nat) (s : State) : Sys2Proof.core.run n s = .next (cycleState^[n] s) := by
  induction n generalizing s with
  | zero => rfl
  | succ n ih => exact (run_succ_of_next Sys2Proof.core n (step_eq s)).trans (ih (cycleState s))

theorem iterate_cycleState_cfg (n : Nat) (s : State) : (cycleState^[n] s).cfg = s.cfg := by
  induction n generalizing s with
  | zero => rfl
  | succ n ih => rw [Function.iterate_succ_apply, ih, cycleState_cfg]

theorem iterate_cycleState_inputs (n : Nat) (s : State) : (cycleState^[n] s).inputs = s.inputs.drop n := by
  induction n generalizing s with
  | zero => rfl
  | succ n ih => rw [Function.iterate_succ_apply, ih, cycleState_inputs, List.drop_tail]

/-- Two runs from the same parameters and registers with the same `n` next input cycles show the same for `n` cycles
and then have the same registers. -/
theorem run_congr (n : Nat) (s s' : State) (hc : s.cfg = s'.cfg) (hr : s.regs = s'.regs)
    (hi : s.inputs.take n = s'.inputs.take n) :
    portTrace n s = portTrace n s' ∧ (cycleState^[n] s).regs = (cycleState^[n] s').regs := by
  induction n generalizing s s' with
  | zero => exact ⟨rfl, hr⟩
  | succ n ih =>
    have hfirst : s.nextInput = s'.nextInput ∧ s.inputs.tail.take n = s'.inputs.tail.take n := by
      unfold State.nextInput
      cases h : s.inputs <;> cases h' : s'.inputs <;> simp_all
    obtain ⟨hnext, htail⟩ := hfirst
    have hcycle := cycleState_congr hc hr hnext
    obtain ⟨htrace, hregs⟩ := ih (cycleState s) (cycleState s') (by simp [hc]) (by rw [hcycle]; rfl)
      (by simpa using htail)
    rw [portTrace_succ, portTrace_succ, Function.iterate_succ_apply, Function.iterate_succ_apply, htrace, hregs, hcycle]
    exact ⟨rfl, rfl⟩

/-! ### The statements about the step -/

theorem nextAction_of_inputs_cons {s : State} {c : InPorts} {rest : List InPorts} (h : s.inputs = c :: rest) :
    s.nextAction = c.action s.cfg.tsWidth := by
  rw [State.nextAction, nextInput_cons s c rest h]

theorem action_event_of_decode {tsWidth w : Nat} {i : Instr} (h : decode tsWidth w = .instr i) :
    (InPorts.event w).action tsWidth = .event i := by
  simp [InPorts.action, InPorts.event, h]

theorem dropInput_of_inputs_cons {s : State} {c : InPorts} {rest : List InPorts} (h : s.inputs = c :: rest) :
    s.dropInput = { s with inputs := rest } := by
  rw [State.dropInput, h, List.tail_cons]

/-- Settles O7: the cycle asks for the decoded operation, which runs with the cycle taken. -/
theorem stepRunsTheDecodedOperation : Obligations.StepRunsTheDecodedOperation := by
  intro s w rest i hin hdec
  have hact : s.nextAction = .event i := (nextAction_of_inputs_cons hin).trans (action_event_of_decode hdec)
  rw [step_eq, cycleState_of_event hact, exec_eq, dropInput_of_inputs_cons hin]

/-- Settles O8: the delivered word is the first input cycle, and the step runs what the decoder reads from it. -/
theorem deliveredTableWordRunsItsOperation : Obligations.DeliveredTableWordRunsItsOperation := by
  intro s nbits w i
  have hrun (hdec : decode s.cfg.tsWidth (tableWord nbits w) = .instr i) :=
    stepRunsTheDecodedOperation (s.withFetchWord nbits w) (tableWord nbits w) s.inputs.tail i rfl hdec
  refine ⟨hrun, fun hwidth htable => hrun ?_⟩
  rw [hwidth]
  unfold decodeTableWord at htable
  split at htable
  next j hdec => cases htable; exact hdec
  next => cases htable

/-- Settles O9: the cycle is the report of an illegal word. -/
theorem illegalWordIsReportedAndChangesNothing : Obligations.IllegalWordIsReportedAndChangesNothing := by
  intro s w rest why hin hdec
  have hact : s.nextAction = .illegal why := by
    rw [nextAction_of_inputs_cons hin]; simp [InPorts.action, hdec]
  refine ⟨_, step_eq s, ?_⟩
  rw [cycleState_of_illegal hact, dropInput_of_inputs_cons hin]
  exact ⟨rfl, rfl, rfl, by simp [State.outPorts, OutRec.valid, OutRec.word, outFields, slice, Strobes.quiet]⟩

/-- Settles O10: the cycle is idle, also beyond the end of the list. -/
theorem idleCycleHoldsTheRegisters : Obligations.IdleCycleHoldsTheRegisters := by
  intro s hin
  have hact : s.nextAction = .idle := by
    obtain hnil | ⟨w, rest, hcons⟩ := hin
    · rw [State.nextAction, nextInput_nil s hnil]; rfl
    · rw [nextAction_of_inputs_cons hcons]; rfl
  refine ⟨_, step_eq s, ?_⟩
  rw [cycleState_of_idle hact]
  exact ⟨rfl, rfl, rfl, rfl⟩

/-- Settles O11: reset is looked at before `ev_valid` and `ev_word`. -/
theorem resetCycleResetsEveryRegister : Obligations.ResetCycleResetsEveryRegister := by
  intro s valid w rest hin
  have hact : s.nextAction = .reset := nextAction_of_inputs_cons hin
  refine ⟨_, step_eq s, ?_⟩
  rw [cycleState_of_reset hact, dropInput_of_inputs_cons hin]
  exact ⟨rfl, rfl, rfl, rfl⟩

/-- Settles O12, by evaluating the reset state; no output shows the open threshold. -/
theorem resetStateIsAllZeroOnTheStatusPorts : Obligations.ResetStateIsAllZeroOnTheStatusPorts :=
  ⟨rfl, rfl, rfl⟩

/-- Settles O13: a step answers the next state of the cycle. -/
theorem everyCycleHasANextState : Obligations.EveryCycleHasANextState := fun s =>
  ⟨cycleState s, step_eq s, cycleState_keeps s⟩

/-- Settles O14: the two states differ in the outputs of the last cycle at most, which a cycle does not read. -/
theorem noOutputIsLatched : Obligations.NoOutputIsLatched := by
  intro s s' hc hr hi
  have hnext : s.nextInput = s'.nextInput := by rw [State.nextInput, State.nextInput, hi]
  have hsame : (cycleState s).withInputs s'.inputs.tail = cycleState s := by
    rw [← hi, ← cycleState_inputs]; rfl
  exact ⟨cycleState s, step_eq s, by rw [step_eq, cycleState_congr hc hr hnext, hsame]⟩

/-- Settles O15, by induction on the number of cycles. -/
theorem outputsDependOnNoLaterInput : Obligations.OutputsDependOnNoLaterInput := fun n s s' hc hr hi =>
  (run_congr n s s' hc hr hi).1

end Sys2Proof.Machine
end

section
/-! The invariants of 10_state.md R35: what a cycle may do to the two registers of a gate, said once, and the
statements that every step keeps the invariants. -/

namespace Sys2Proof.Machine

/-! ### The two registers of a gate -/

theorem GateSpec.lastAcc_cases {ev : RawEvent} {t : Nat} {s u : State} (h : GateSpec ev t s u) :
    u.regs.lastAcc = s.regs.lastAcc ∨ u.regs.lastAcc = s.regs.lastAcc.set ev.gate (some t) := by
  by_cases hr : Rejected s.cfg ev.gate (s.regs.lastAcc.get ev.gate) t
  · exact .inl (h.reject hr).1
  · exact .inr (h.accept hr).1

/-- What an event with timestamp operand `ts` may do to the registers of gate `g`: nothing but clear `last_acc[g]`, or
record a raw event, accepted or not (10_state.md R36, 41_debounce_speed.md R133). -/
def GateWrites (ts : Option Nat) (g : Gate) (r r' : Regs) : Prop :=
  (r'.lastRaw.get g = r.lastRaw.get g ∧ (r'.lastAcc.get g = r.lastAcc.get g ∨ r'.lastAcc.get g = none)) ∨
  (∃ t, ts = some t ∧ r'.lastRaw.get g = some t ∧ (r'.lastAcc.get g = r.lastAcc.get g ∨ r'.lastAcc.get g = some t))

theorem GateWrites.of_eq {ts : Option Nat} {g : Gate} {r r' : Regs} (hraw : r'.lastRaw = r.lastRaw)
    (hacc : r'.lastAcc = r.lastAcc) : GateWrites ts g r r' :=
  .inl ⟨by rw [hraw], .inl (by rw [hacc])⟩

theorem GateSpec.gateWrites {ev : RawEvent} {t : Nat} {s u : State} (h : GateSpec ev t s u) (g : Gate) :
    GateWrites (some t) g s.regs u.regs := by
  by_cases hg : g = ev.gate
  · subst hg
    refine .inr ⟨t, rfl, by rw [h.seen, PerGate.get_set_self], ?_⟩
    obtain hacc | hacc := h.lastAcc_cases
    · exact .inl (by rw [hacc])
    · exact .inr (by rw [hacc, PerGate.get_set_self])
  · obtain ⟨hraw, hacc⟩ := h.other_gates hg
    exact .inl ⟨hraw, .inl hacc⟩

theorem EdgeSpec.gateWrites {pin : Pin} {level : Bit} {t : Nat} {s u : State} (h : EdgeSpec pin level t s u)
    (g : Gate) :
    GateWrites (some t) g s.regs u.regs := by
  by_cases hc : CompletesClick pin level s.regs
  · exact (h.gateSpec_of_click hc).gateWrites g
  · obtain ⟨-, -, -, -, hacc, hraw⟩ := h.noDetent hc
    exact .of_eq hraw hacc

theorem execState_gateWrites (i : Instr) (s : State) (g : Gate) : GateWrites i.ts? g s.regs (execState i s).regs := by
  cases i using instr_by_kind with
  | nop => exact .of_eq rfl rfl
  | edge pin level ts => rw [edgeInstr_ts?]; exact (execState_edge_spec pin level ts s).gateWrites g
  | btnEdge level ts => exact (execState_btnEdge_spec level ts s).gateWrites g
  | page stream mask =>
    have hacc : (execState (.page stream mask) s).regs.lastAcc.get g =
        if mask.get g then none else s.regs.lastAcc.get g :=
      clearNamed_get mask s.regs.lastAcc g
    refine .inl ⟨rfl, ?_⟩
    split at hacc
    · exact .inr hacc
    · exact .inl hacc

theorem GateWrites.seen_of_accepted {ts : Option Nat} {g : Gate} {r r' : Regs} (h : GateWrites ts g r r')
    (hr : r.lastAcc.get g ≠ none → r.lastRaw.get g ≠ none) (hacc : r'.lastAcc.get g ≠ none) :
    r'.lastRaw.get g ≠ none := by
  obtain ⟨hraw, hsame | hnone⟩ | ⟨t, -, hraw, -⟩ := h
  · rw [hraw]; exact hr (hsame ▸ hacc)
  · exact absurd hnone hacc
  · simp [hraw]

/-- A timestamp of the gate registers after an event was there before or is the event's own. -/
theorem GateWrites.fit {ts : Option Nat} {tsWidth : Nat} {r r' : Regs} (h : ∀ g, GateWrites ts g r r')
    (hts : ∀ t, ts = some t → t < 2 ^ tsWidth) (hr : r.fit tsWidth)
    (hdetent : r'.lastDetentTs = r.lastDetentTs ∨ r'.lastDetentTs = ts) : r'.fit tsWidth where
  lastDetentTs t ht := by
    obtain hd | hd := hdetent
    · exact hr.lastDetentTs t (hd ▸ ht)
    · exact hts t (hd ▸ ht)
  lastAcc g t ht := by
    have hacc := hr.lastAcc g t
    obtain ⟨-, hsame | hnone⟩ | ⟨t', ht', -, hsame | hnew⟩ := h g
    · exact hacc (hsame ▸ ht)
    · simp [hnone] at ht
    · exact hacc (hsame ▸ ht)
    · exact hts t (by rw [ht', ← hnew, ht])
  lastRaw g t ht := by
    obtain ⟨hsame, -⟩ | ⟨t', ht', hnew, -⟩ := h g
    · exact hr.lastRaw g t (hsame ▸ ht)
    · exact hts t (by rw [ht', ← hnew, ht])

/-! ### The decoder's invariants -/

theorem EdgeSpec.levelsAgree {pin : Pin} {level : Bit} {t : Nat} {s u : State} (h : EdgeSpec pin level t s u) :
    u.regs.levelsAgree := by
  rw [Regs.levelsAgree, h.lastState, h.levelA, h.levelB, newState_eq]

/-- An edge event changes one level at most, so no pair is a double change: the table value is 0 only when the state
stays (40_quadrature_decoder.md R102). -/
theorem tt_newState_eq_zero_iff {r : Regs} (h : r.levelsAgree) (pin : Pin) (level : Bit) :
    tt r.lastState (newState pin level r) = .zero ↔ newState pin level r = r.lastState := by
  have honeBit : ∀ a b level : Bit,
      (tt (combined a b) (combined level b) = .zero ↔ combined level b = combined a b) ∧
      (tt (combined a b) (combined a level) = .zero ↔ combined a level = combined a b) := by decide
  rw [h]
  cases pin with
  | a => exact (honeBit r.levelA r.levelB level).1
  | b => exact (honeBit r.levelA r.levelB level).2

theorem EdgeSpec.armedAway {pin : Pin} {level : Bit} {t : Nat} {s u : State} (h : EdgeSpec pin level t s u)
    (hlevels : s.regs.levelsAgree) (harmed : s.regs.armedAway) : u.regs.armedAway := by
  rw [Regs.armedAway, h.armed, h.lastState]
  by_cases hnew : newState pin level s.regs = 0
  · simp [hnew]
  by_cases hlast : s.regs.lastState = 0
  · rw [if_neg hnew, if_pos hlast, tt_newState_eq_zero_iff hlevels, hlast]
  · rw [if_neg hnew, if_neg hlast]
    exact iff_of_false (fun hz => hlast (harmed.mp hz)) hnew

theorem EdgeSpec.detentWasSeen {pin : Pin} {level : Bit} {t : Nat} {s u : State} (h : EdgeSpec pin level t s u)
    (hs : s.regs.detentWasSeen) : u.regs.detentWasSeen := by
  by_cases hc : CompletesClick pin level s.regs
  · obtain ⟨-, hts, -⟩ := h.detent hc
    have hraw : u.regs.lastRaw = s.regs.lastRaw.set (streamGate s.regs.rotStream) (some t) :=
      (h.gateSpec_of_click hc).seen
    unfold Regs.detentWasSeen
    rw [hts, hraw]
    cases s.regs.rotStream <;> simp [streamGate, PerGate.set]
  · obtain ⟨-, -, -, hts, -, hraw⟩ := h.noDetent hc
    unfold Regs.detentWasSeen
    rw [hts, hraw]
    exact hs

/-- Before and after any operation, `last_detent_ts` is the same or the operation's timestamp. -/
theorem execState_lastDetentTs (i : Instr) (s : State) :
    (execState i s).regs.lastDetentTs = s.regs.lastDetentTs ∨ (execState i s).regs.lastDetentTs = i.ts? := by
  cases i using instr_by_kind with
  | nop => exact .inl rfl
  | edge pin level ts =>
    have hspec := execState_edge_spec pin level ts s
    by_cases hc : CompletesClick pin level s.regs
    · obtain ⟨-, hts, -⟩ := hspec.detent hc
      exact .inr (by rw [hts, edgeInstr_ts?])
    · obtain ⟨-, -, -, hts, -⟩ := hspec.noDetent hc
      exact .inl hts
  | btnEdge level ts => exact .inl (by rw [execState_btnEdge_frame])
  | page stream mask => exact .inl rfl

/-! ### Every operation and every cycle keeps them -/

theorem ts_lt_of_wf_of_ts? {tsWidth : Nat} {i : Instr} (h : i.wf tsWidth = true) (t : Nat) (ht : i.ts? = some t) :
    t < 2 ^ tsWidth := by
  simpa [ht] using ts_lt_of_wf h

theorem execState_keeps_inv {i : Instr} {s : State} (hwf : i.wf s.cfg.tsWidth = true) (h : Inv s) :
    Inv (execState i s) := by
  have hcfg := (execState_keeps i s).1
  have hgates := execState_gateWrites i s
  have hfit : (execState i s).regs.fit s.cfg.tsWidth :=
    GateWrites.fit hgates (ts_lt_of_wf_of_ts? hwf) h.fit (execState_lastDetentTs i s)
  have hdecoder : (execState i s).regs.levelsAgree ∧ (execState i s).regs.armedAway ∧
      (execState i s).regs.detentWasSeen := by
    cases i using instr_by_kind with
    | nop => exact ⟨h.levelsAgree, h.armedAway, h.detentWasSeen⟩
    | edge pin level ts =>
      have hspec := execState_edge_spec pin level ts s
      exact ⟨hspec.levelsAgree, hspec.armedAway h.levelsAgree h.armedAway, hspec.detentWasSeen h.detentWasSeen⟩
    | btnEdge level ts => rw [execState_btnEdge_writes]; exact ⟨h.levelsAgree, h.armedAway, h.detentWasSeen⟩
    | page stream mask => exact ⟨h.levelsAgree, h.armedAway, h.detentWasSeen⟩
  obtain ⟨hlevels, harmed, hdetent⟩ := hdecoder
  exact ⟨hcfg ▸ h.cfgWf, hcfg ▸ hfit, hlevels, harmed,
    fun g => (hgates g).seen_of_accepted (h.acceptedWasSeen g), hdetent⟩

/-- The invariants speak of the parameters and the registers alone. -/
theorem Inv.congr {s u : State} (h : Inv s) (hcfg : u.cfg = s.cfg) (hregs : u.regs = s.regs) : Inv u := by
  obtain ⟨h1, h2, h3, h4, h5, h6⟩ := h
  constructor <;> simp only [hcfg, hregs] <;> assumption

theorem Regs.reset_get (g : Gate) : Regs.reset.lastAcc.get g = none ∧ Regs.reset.lastRaw.get g = none := by
  cases g <;> exact ⟨rfl, rfl⟩

/-- Reset registers meet the invariants in every build. -/
theorem inv_of_reset {u : State} (hcfg : u.cfg.wf = true) (hregs : u.regs = Regs.reset) : Inv u where
  cfgWf := hcfg
  fit := by
    rw [hregs]
    exact ⟨by simp [Regs.reset], fun g => by simp [Regs.reset_get], fun g => by simp [Regs.reset_get]⟩
  levelsAgree := by rw [hregs]; decide
  armedAway := by rw [hregs]; decide
  acceptedWasSeen := by rw [hregs]; intro g hacc; exact absurd (Regs.reset_get g).1 hacc
  detentWasSeen := by rw [hregs]; unfold Regs.detentWasSeen; decide

theorem cycleState_keeps_inv {s : State} (h : Inv s) : Inv (cycleState s) := by
  cases hact : s.nextAction with
  | reset => rw [cycleState_of_reset hact]; exact inv_of_reset h.cfgWf rfl
  | idle => rw [cycleState_of_idle hact]; exact h.congr rfl rfl
  | event i =>
    rw [cycleState_of_event hact]
    exact execState_keeps_inv (s := s.dropInput) (wf_of_nextAction (s := s) hact) (h.congr rfl rfl)
  | illegal why => rw [cycleState_of_illegal hact]; exact h.congr rfl rfl

theorem iterate_cycleState_keeps_inv (n : Nat) {s : State} (h : Inv s) : Inv (cycleState^[n] s) := by
  induction n generalizing s with
  | zero => exact h
  | succ n ih => exact ih (cycleState_keeps_inv h)

/-! ### MONO -/

theorem timestamps_cons (tsWidth : Nat) (c : InPorts) (cs : List InPorts) :
    timestamps tsWidth (c :: cs) = (c.ts? tsWidth).toList ++ timestamps tsWidth cs := by
  unfold timestamps
  cases h : c.ts? tsWidth <;> simp [h]

/-- The timestamp of the next cycle, if it has one, and then those of the rest. -/
theorem timestamps_inputs (s : State) : timestamps s.cfg.tsWidth s.inputs =
    (s.nextInput.ts? s.cfg.tsWidth).toList ++ timestamps s.cfg.tsWidth s.inputs.tail := by
  cases h : s.inputs with
  | nil => rw [nextInput_nil s h]; rfl
  | cons c cs => rw [nextInput_cons s c cs h, timestamps_cons, List.tail_cons]

theorem ts?_of_nextAction {s : State} {i : Instr} (h : s.nextAction = .event i) :
    s.nextInput.ts? s.cfg.tsWidth = i.ts? := by
  rw [State.nextAction] at h
  simp [InPorts.ts?, InPorts.delivered, h]

/-- A cycle writes the registers of a gate as its event does, or resets them. -/
theorem cycleState_gateWrites (s : State) (g : Gate) :
    GateWrites (s.nextInput.ts? s.cfg.tsWidth) g s.regs (cycleState s).regs ∨
    ((cycleState s).regs.lastRaw.get g = none ∧ (cycleState s).regs.lastAcc.get g = none) := by
  cases h : s.nextAction with
  | reset => rw [cycleState_of_reset h]; exact .inr (Regs.reset_get g).symm
  | idle => rw [cycleState_of_idle h]; exact .inl (.of_eq rfl rfl)
  | event i => rw [cycleState_of_event h, ts?_of_nextAction h]; exact .inl (execState_gateWrites i s.dropInput g)
  | illegal why => rw [cycleState_of_illegal h]; exact .inl (.of_eq rfl rfl)

theorem cycleState_keeps_acceptedWasSeen {s : State} (h : s.regs.acceptedWasSeen) :
    (cycleState s).regs.acceptedWasSeen := by
  intro g
  obtain hw | ⟨-, hacc⟩ := cycleState_gateWrites s g
  · exact hw.seen_of_accepted (h g)
  · exact fun hne => absurd hacc hne

theorem cycleState_keeps_monoInv {s : State} (h : MonoInv s) : MonoInv (cycleState s) := by
  obtain ⟨hcoming, hseen, hahead, hbehind⟩ := h
  rw [Mono, timestamps_inputs, List.pairwise_append] at hcoming
  obtain ⟨-, hrest, hfirst⟩ := hcoming
  simp only [timestamps_inputs, List.mem_append, Option.mem_toList] at hahead hfirst
  constructor
  case coming => rw [cycleState_cfg, cycleState_inputs]; exact hrest
  case seen => exact cycleState_keeps_acceptedWasSeen hseen
  case ahead =>
    intro g r t hr ht
    rw [cycleState_cfg, cycleState_inputs] at ht
    obtain (⟨hraw, -⟩ | ⟨t', ht', hraw, -⟩) | ⟨hraw, -⟩ := cycleState_gateWrites s g
    · exact hahead g r t (hraw ▸ hr) (.inr ht)
    · obtain rfl : t' = r := Option.some.inj (hraw.symm.trans hr)
      exact hfirst t' ht' t ht
    · simp [hraw] at hr
  case behind =>
    intro g a r ha hr
    obtain (⟨hraw, hacc | hacc⟩ | ⟨t, ht, hraw, hacc | hacc⟩) | ⟨hraw, -⟩ := cycleState_gateWrites s g
    · exact hbehind g a r (hacc ▸ ha) (hraw ▸ hr)
    · simp [hacc] at ha
    · obtain rfl : t = r := Option.some.inj (hraw.symm.trans hr)
      rw [hacc] at ha
      obtain ⟨r₀, hr₀⟩ := Option.ne_none_iff_exists'.mp (hseen g (by simp [ha]))
      exact (hbehind g a r₀ ha hr₀).trans (hahead g r₀ t hr₀ (.inl ht))
    · rw [← Option.some.inj (hacc.symm.trans ha), ← Option.some.inj (hraw.symm.trans hr)]
    · simp [hraw] at hr

/-! ### The statements -/

/-- Settles O16: the registers are reset, and the defaults and the open threshold fit the 64 bits. -/
theorem invariantsHoldAtReset : Obligations.InvariantsHoldAtReset := by
  have hthreshold : tsInRange Config.tsWidth Config.speedThreshold.toNat = true :=
    decide_eq_true Config.speedThreshold.isLt
  refine inv_of_reset ?_ rfl
  show (_ && _ && _ && _ && tsInRange Config.tsWidth Config.speedThreshold.toNat) = true
  rw [hthreshold]
  decide

/-- Settles O17: every cycle keeps the invariants, by what an operation does to the gates and to the decoder. -/
theorem everyStepKeepsTheInvariants : Obligations.EveryStepKeepsTheInvariants := fun _ _ hinv hstep =>
  eq_cycleState hstep ▸ cycleState_keeps_inv hinv

/-- Settles O18: a cycle that records a timestamp records the first of the coming ones. -/
theorem everyStepKeepsRawAtOrAfterAccepted : Obligations.EveryStepKeepsRawAtOrAfterAccepted := fun _ _ hinv hstep =>
  eq_cycleState hstep ▸ cycleState_keeps_monoInv hinv

end Sys2Proof.Machine
end

section
/-! The decoder against one that counts net quarter-steps since home (40_quadrature_decoder.md R112 P-2): the sum that
`armed` and `last_state` stand for, that every operation keeps the agreement, and the statements about detents. -/

namespace Sys2Proof.Machine

/-! ### The count that the registers stand for -/

/-- The net quarter-steps since home, read off the direction in which home was left and the place on the circle
(40_quadrature_decoder.md R106, R112). -/
def quarterSteps (armed : Sgn) (last : Combined) : Int :=
  match armed with
  | .zero => 0
  | .pos  => if last = 1 then 1 else if last = 3 then 2 else 3
  | .neg  => if last = 2 then -1 else if last = 3 then -2 else -3

/-- To agree with a count is to have its levels, and the net quarter-steps of the registers as its sum. -/
theorem countsWith_iff (r : Regs) (c : CountState) : CountsWith r c ↔
    r.levelA = c.a ∧ r.levelB = c.b ∧ r.levelsAgree ∧ r.armedAway ∧ c.sum = quarterSteps r.armed r.lastState := by
  have hplaces : ∀ (armed : Sgn) (last : Combined) (sum : Int),
      (armed = .zero ↔ last = 0) ∧ sum = quarterSteps armed last ↔
      (last = 0 ∧ armed = .zero ∧ sum = 0) ∨
      (armed = .pos ∧ ((last = 1 ∧ sum = 1) ∨ (last = 3 ∧ sum = 2) ∨ (last = 2 ∧ sum = 3))) ∨
      (armed = .neg ∧ ((last = 2 ∧ sum = -1) ∨ (last = 3 ∧ sum = -2) ∨ (last = 1 ∧ sum = -3))) := by
    intro armed last sum
    have hlast : last = 0 ∨ last = 1 ∨ last = 2 ∨ last = 3 := by revert last; decide
    obtain rfl | rfl | rfl | rfl := hlast <;> cases armed <;> simp [quarterSteps]
  exact ⟨fun ⟨ha, hb, hl, hsum⟩ => ⟨ha, hb, hl, (hplaces _ _ _).mpr hsum⟩,
    fun ⟨ha, hb, hl, hsum⟩ => ⟨ha, hb, hl, (hplaces _ _ _).mp hsum⟩⟩

/-- One edge on the circle: away from home the net quarter-steps grow by the table value and there is no detent; on
arrival the sum says which detent there is. A pair with table value 0 is a state that stays. -/
theorem quarterSteps_edge : ∀ (armed : Sgn) (p n : Combined), (armed = .zero ↔ p = 0) → (tt p n = .zero → n = p) →
    (n = 0 → sumReport (quarterSteps armed p + (tt p n).toInt) = some (detent (tt p n) n armed).code) ∧
    (n ≠ 0 → quarterSteps (armedAfter p n (tt p n) armed) n = quarterSteps armed p + (tt p n).toInt ∧
      (detent (tt p n) n armed).code = 0) := by
  have h : ∀ armed ∈ [Sgn.neg, .zero, .pos], ∀ p n : Combined, (armed = .zero ↔ p = 0) → (tt p n = .zero → n = p) →
    (n = 0 → sumReport (quarterSteps armed p + (tt p n).toInt) = some (detent (tt p n) n armed).code) ∧
    (n ≠ 0 → quarterSteps (armedAfter p n (tt p n) armed) n = quarterSteps armed p + (tt p n).toInt ∧
      (detent (tt p n) n armed).code = 0) := by decide
  intro armed
  exact h armed (by cases armed <;> decide)

/-! ### Every operation keeps the agreement -/

/-- `dbg_det` shows the detent of the edge event (40_quadrature_decoder.md R107). -/
theorem EdgeSpec.det_eq {pin : Pin} {level : Bit} {t : Nat} {s u : State} (h : EdgeSpec pin level t s u) :
    u.strobes.det =
      (Machine.detent (tt s.regs.lastState (newState pin level s.regs)) (newState pin level s.regs)
        s.regs.armed).code := by
  obtain ⟨hc, hz, hd⟩ | ⟨hc, hd⟩ := detent_cases pin level s.regs
  · rw [hd, (h.detent hc).1]
    cases ha : s.regs.armed with
    | zero => exact absurd ha hz
    | pos => rfl
    | neg => rfl
  · rw [hd, (h.noDetent hc).1]; rfl

theorem EdgeSpec.armed_eq {pin : Pin} {level : Bit} {t : Nat} {s u : State} (h : EdgeSpec pin level t s u) :
    u.regs.armed = armedAfter s.regs.lastState (newState pin level s.regs)
      (tt s.regs.lastState (newState pin level s.regs)) s.regs.armed := h.armed

theorem EdgeSpec.countsWith {pin : Pin} {level : Bit} {t : Nat} {s u : State} {c : CountState}
    (h : EdgeSpec pin level t s u) (hc : CountsWith s.regs c) :
    CountsWith u.regs (c.edge pin level).1 ∧ some u.strobes.det = (c.edge pin level).2 := by
  obtain ⟨ha, hb, hlevels, harmed, hsum⟩ := (countsWith_iff _ _).mp hc
  obtain ⟨hhome, haway⟩ := quarterSteps_edge s.regs.armed s.regs.lastState (newState pin level s.regs) harmed
    (tt_newState_eq_zero_iff hlevels pin level).mp
  have hnew : combined (if pin = .a then level else c.a) (if pin = .b then level else c.b) =
      newState pin level s.regs := by rw [← ha, ← hb, newState_eq]
  have hold : combined c.a c.b = s.regs.lastState := by rw [← ha, ← hb, hlevels]
  have hagree : u.regs.levelA = (if pin = .a then level else c.a) ∧ u.regs.levelB = (if pin = .b then level else c.b) ∧
      u.regs.levelsAgree ∧ u.regs.armedAway :=
    ⟨by rw [h.levelA, ha], by rw [h.levelB, hb], h.levelsAgree, h.armedAway hlevels harmed⟩
  obtain ⟨hua, hub, hul, huw⟩ := hagree
  simp only [CountState.edge, hnew, hold]
  by_cases hz : newState pin level s.regs = 0
  · rw [if_pos hz, h.det_eq, hsum, hhome hz]
    refine ⟨(countsWith_iff _ _).mpr ⟨hua, hub, hul, huw, ?_⟩, rfl⟩
    rw [huw.mpr (h.lastState.trans hz)]
    rfl
  · obtain ⟨hsteps, hdet⟩ := haway hz
    rw [if_neg hz, h.det_eq, hdet]
    refine ⟨(countsWith_iff _ _).mpr ⟨hua, hub, hul, huw, ?_⟩, rfl⟩
    rw [h.armed_eq, h.lastState, hsteps, hsum]

/-- One operation in the counting decoder: only edges act on it. -/
def CountState.operate (c : CountState) : Instr → CountState × Option (BitVec 2)
  | .edgeA level _ => c.edge .a level
  | .edgeB level _ => c.edge .b level
  | .btnEdge _ _   => (c, some 0b00)
  | .page _ _      => (c, some 0b00)
  | .nop           => (c, some 0b00)

theorem cycle_of_event {tsWidth : Nat} {p : InPorts} {i : Instr} (h : p.action tsWidth = .event i) (c : CountState) :
    c.cycle tsWidth p = c.operate i := by
  rw [CountState.cycle, h]
  cases i <;> rfl

theorem operate_edgeInstr (c : CountState) (pin : Pin) (level : Bit) (ts : Nat) :
    c.operate (edgeInstr pin level ts) = c.edge pin level := by cases pin <;> rfl

/-- A button edge is no business of the decoder. -/
theorem execState_btnEdge_det (level : Bit) (ts : Nat) (s : State) :
    (execState (.btnEdge level ts) s).strobes.tr = 0 ∧ (execState (.btnEdge level ts) s).strobes.det = 0 :=
  have hframe := gateEvent_frame (.button level) ts (s.present .none Strobes.quiet)
  ⟨hframe.tr, hframe.det⟩

theorem execState_countsWith (i : Instr) {s : State} {c : CountState} (h : CountsWith s.regs c) :
    CountsWith (execState i s).regs (c.operate i).1 ∧ some (execState i s).strobes.det = (c.operate i).2 := by
  cases i using instr_by_kind with
  | nop => exact ⟨h, rfl⟩
  | edge pin level ts => rw [operate_edgeInstr]; exact (execState_edge_spec pin level ts s).countsWith h
  | btnEdge level ts =>
    rw [(execState_btnEdge_det level ts s).2, execState_btnEdge_frame]
    exact ⟨⟨h.levelA, h.levelB, h.levelsAgree, h.sum⟩, rfl⟩
  | page stream mask => exact ⟨⟨h.levelA, h.levelB, h.levelsAgree, h.sum⟩, rfl⟩

theorem countsWith_reset : CountsWith Regs.reset CountState.reset :=
  (countsWith_iff _ _).mpr ⟨rfl, rfl, by decide, by decide, rfl⟩

theorem cycleState_countsWith {s : State} {c : CountState} (h : CountsWith s.regs c) :
    CountsWith (cycleState s).regs (c.cycle s.cfg.tsWidth s.nextInput).1 ∧
    some (cycleState s).strobes.det = (c.cycle s.cfg.tsWidth s.nextInput).2 := by
  cases hact : s.nextAction with
  | reset => rw [cycleState_of_reset hact, CountState.cycle, ← State.nextAction, hact]; exact ⟨countsWith_reset, rfl⟩
  | idle => rw [cycleState_of_idle hact, CountState.cycle, ← State.nextAction, hact]; exact ⟨h, rfl⟩
  | event i => rw [cycleState_of_event hact, cycle_of_event hact]; exact execState_countsWith (s := s.dropInput) i h
  | illegal why => rw [cycleState_of_illegal hact, CountState.cycle, ← State.nextAction, hact]; exact ⟨h, rfl⟩

/-- The `dbg_det` values of a run are the reports of the counting decoder. -/
theorem detents_portTrace_eq_countTrace (s : State) (c : CountState) (h : CountsWith s.regs c) :
    (detents (portTrace s.inputs.length s)).map some = countTrace s.cfg.tsWidth s.inputs c := by
  induction hin : s.inputs generalizing s c with
  | nil => rfl
  | cons p cs ih =>
    obtain ⟨hnext, hdet⟩ := cycleState_countsWith h
    have hrest := ih (cycleState s) _ hnext (by rw [cycleState_inputs, hin, List.tail_cons])
    rw [nextInput_cons s p cs hin] at hdet hrest
    rw [cycleState_cfg] at hrest
    rw [List.length_cons, portTrace_succ, countTrace, ← hrest, ← hdet]
    rfl

/-! ### Sequences of operations -/

/-- What the counting decoder reports for each operation of a list. -/
def countOps : List Instr → CountState → List (Option (BitVec 2))
  | [], _ => []
  | i :: rest, c => (c.operate i).2 :: countOps rest (c.operate i).1

theorem execTrace_cons (i : Instr) (rest : List Instr) (s : State) : execTrace (i :: rest) s =
    ((execState i s).out, (execState i s).strobes) :: execTrace rest (execState i s) := by
  rw [execTrace, exec_eq]

theorem detents_execTrace_eq_countOps (is : List Instr) (s : State) (c : CountState) (h : CountsWith s.regs c) :
    (detents (execTrace is s)).map some = countOps is c := by
  induction is generalizing s c with
  | nil => rfl
  | cons i rest ih =>
    obtain ⟨hnext, hdet⟩ := execState_countsWith i h
    rw [execTrace_cons, countOps, ← ih _ _ hnext, ← hdet]
    rfl

theorem AtHome.countsWith {s : State} (h : AtHome s) : CountsWith s.regs CountState.reset := by
  obtain ⟨ha, hb, hlast, harmed⟩ := h
  refine (countsWith_iff _ _).mpr ⟨ha, hb, ?_, ?_, ?_⟩
  · rw [Regs.levelsAgree, ha, hb, hlast]; rfl
  · simp [Regs.armedAway, harmed, hlast]
  · rw [harmed, hlast]; rfl

/-- From rest at home a sequence shows the detents that the counting decoder reports for it. -/
theorem detents_of_countOps {s : State} (h : AtHome s) {is : List Instr} {ds : List (BitVec 2)}
    (hcount : countOps is CountState.reset = ds.map some) : detents (execTrace is s) = ds := by
  apply List.map_injective_iff.mpr (Option.some_injective _)
  rw [detents_execTrace_eq_countOps is s _ h.countsWith, hcount]

/-! ### The statements -/

/-- Settles O28. -/
theorem theCountStartsWithReset : Obligations.TheCountStartsWithReset := countsWith_reset

/-- Settles O29: an edge moves the sum and the place on the circle together, and nothing else moves either. -/
theorem everyStepKeepsTheCount : Obligations.EveryStepKeepsTheCount := fun _ _ _ hc hstep =>
  eq_cycleState hstep ▸ cycleState_countsWith hc

/-- Settles O30, by induction on the input cycles from the count at reset. -/
theorem armedDecoderCountsFourQuarterSteps : Obligations.ArmedDecoderCountsFourQuarterSteps := fun s cs hreset =>
  detents_portTrace_eq_countTrace (s.withInputs cs) CountState.reset (hreset ▸ countsWith_reset)

/-- Settles O27: the counting decoder reports these detents, whatever the timestamps. -/
theorem theDocumentsSequences : Obligations.TheDocumentsSequences := by
  intro s t1 t2 t3 t4 t5 t6 hhome
  refine ⟨detents_of_countOps hhome ?_, detents_of_countOps hhome ?_, detents_of_countOps hhome ?_,
    detents_of_countOps hhome ?_⟩ <;> simp only [countOps, CountState.operate] <;> rfl

/-- Settles O24: `dbg_det` is the detent of the transition, on all levels and all values of `armed`. -/
theorem eachPinCompletesOneDirection : Obligations.EachPinCompletesOneDirection := by
  have hdetents : ∀ armed ∈ [Sgn.neg, .zero, .pos], ∀ a b level : Bit,
      (let det := (detent (tt (combined a b) (combined level b)) (combined level b) armed).code;
        (det = 0b00 ∨ det = 0b01) ∧ (det = 0b01 ↔ level = 0 ∧ a = 1 ∧ b = 0 ∧ armed = .pos)) ∧
      (let det := (detent (tt (combined a b) (combined a level)) (combined a level) armed).code;
        (det = 0b00 ∨ det = 0b11) ∧ (det = 0b11 ↔ level = 0 ∧ a = 0 ∧ b = 1 ∧ armed = .neg)) := by decide
  intro level ts s hlevels
  obtain ⟨hcw, hccw⟩ := hdetents s.regs.armed (by cases s.regs.armed <;> decide) s.regs.levelA s.regs.levelB level
  rw [← hlevels] at hcw hccw
  refine ⟨⟨_, exec_eq _ s, ?_⟩, ⟨_, exec_eq _ s, ?_⟩⟩
  · rw [(execState_edgeA_spec level ts s).det_eq]; exact hcw
  · rw [(execState_edgeB_spec level ts s).det_eq]; exact hccw

/-- Settles O25: `NOP`, a button edge and `PAGE` show no detent, and an edge event shows one only when it completes a
click. -/
theorem detentsArriveAtHome : Obligations.DetentsArriveAtHome := by
  intro i s u hexec hdet
  obtain rfl := eq_execState hexec
  cases i using instr_by_kind with
  | nop => exact absurd rfl hdet
  | btnEdge level ts => exact absurd (execState_btnEdge_det level ts s).2 hdet
  | page stream mask => exact absurd rfl hdet
  | edge pin level ts =>
    have hspec := execState_edge_spec pin level ts s
    have hclick := hspec.completesClick_iff.mpr hdet
    have ⟨hvalid, hhome, harmed⟩ := hclick
    refine ⟨⟨pin, level, ts, rfl⟩, hspec.lastState.trans hhome, by rw [hspec.armed, if_pos hhome], ?_⟩
    rw [hspec.tr, (hspec.detent hclick).1, harmed]
    cases ha : s.regs.armed with
    | zero => exact absurd (harmed.trans ha) hvalid
    | pos => exact ⟨.inl rfl, rfl⟩
    | neg => exact ⟨.inr rfl, rfl⟩

theorem execState_lastDetentTs_of_det (i : Instr) (s : State) :
    ((execState i s).strobes.det = 0 → (execState i s).regs.lastDetentTs = s.regs.lastDetentTs) ∧
    ((execState i s).strobes.det ≠ 0 → ∃ pin level ts, i = edgeInstr pin level ts ∧
      (execState i s).regs.lastDetentTs = some ts) := by
  cases i using instr_by_kind with
  | nop => exact ⟨fun _ => rfl, fun h => absurd rfl h⟩
  | btnEdge level ts =>
    exact ⟨fun _ => by rw [execState_btnEdge_frame], fun h => absurd (execState_btnEdge_det level ts s).2 h⟩
  | page stream mask => exact ⟨fun _ => rfl, fun h => absurd rfl h⟩
  | edge pin level ts =>
    have hspec := execState_edge_spec pin level ts s
    obtain ⟨-, hkeep, -⟩ := hspec.gate_writes
    refine ⟨fun h => (hkeep h).1, fun h => ⟨pin, level, ts, rfl, ?_⟩⟩
    obtain ⟨-, hts, -⟩ := hspec.detent (hspec.completesClick_iff.mpr h)
    exact hts

theorem action_ne_reset {c : InPorts} (h : c.rst = false) (tsWidth : Nat) : c.action tsWidth ≠ .reset := by
  rw [InPorts.action, h]
  cases c.evValid with
  | false => simp
  | true => cases decode tsWidth c.evWord <;> simp

/-- Settles O26: of the cycles without reset only one that runs an edge event shows a detent. -/
theorem lastDetentTimestampFollowsTheDetents : Obligations.LastDetentTimestampFollowsTheDetents := by
  intro s hrst
  refine ⟨cycleState s, step_eq s, ?_⟩
  cases hact : s.nextAction with
  | reset => exact absurd hact (action_ne_reset hrst s.cfg.tsWidth)
  | idle => rw [cycleState_of_idle hact]; exact ⟨fun _ => rfl, fun h => absurd rfl h⟩
  | illegal why => rw [cycleState_of_illegal hact]; exact ⟨fun _ => rfl, fun h => absurd rfl h⟩
  | event i =>
    rw [cycleState_of_event hact]
    obtain ⟨hkeep, hwrite⟩ := execState_lastDetentTs_of_det i s.dropInput
    refine ⟨hkeep, fun h => ?_⟩
    obtain ⟨pin, level, ts, rfl, hts⟩ := hwrite h
    refine ⟨pin, level, ts, ?_, hts⟩
    rw [InPorts.delivered, ← State.nextAction, hact]

end Sys2Proof.Machine
end

section
/-! Cycles that can be deleted from a run, because they present no record and keep the registers, and registers that
no rule reads (20_memory.md R59, 40_quadrature_decoder.md R112 P-4, 60_exceptions.md R191). -/

namespace Sys2Proof.Machine

/-! ### Deleting a cycle -/

theorem forwarded_append (xs ys : List (OutRec × Strobes)) : forwarded (xs ++ ys) = forwarded xs ++ forwarded ys := by
  simp [forwarded]

theorem forwarded_cons_none (st : Strobes) (xs : List (OutRec × Strobes)) :
    forwarded ((OutRec.none, st) :: xs) = forwarded xs := by
  simp [forwarded]

theorem iterate_cycleState_add (m n : Nat) (s : State) :
    cycleState^[m + n] s = cycleState^[n] (cycleState^[m] s) := by
  rw [Nat.add_comm, Function.iterate_add_apply]

/-- A run on a list of cycles that goes on after some of them has then the registers of the run on those alone, and the
rest of the list to come. -/
theorem run_append (s : State) (before rest : List InPorts) :
    portTrace before.length (s.withInputs (before ++ rest)) = portTrace before.length (s.withInputs before) ∧
    (cycleState^[before.length] (s.withInputs (before ++ rest))).regs =
      (cycleState^[before.length] (s.withInputs before)).regs ∧
    (cycleState^[before.length] (s.withInputs (before ++ rest))).inputs = rest := by
  obtain ⟨htrace, hregs⟩ := run_congr before.length (s.withInputs (before ++ rest)) (s.withInputs before) rfl rfl
    (by simp)
  exact ⟨htrace, hregs, by rw [iterate_cycleState_inputs, State.withInputs_inputs, List.drop_left]⟩

/-- A cycle that presents no record and keeps the registers, in the place where it stands, can be deleted. -/
theorem cycle_can_be_deleted (s : State) (before after : List InPorts) (c : InPorts)
    (hsilent : ∀ m : State, m.cfg = s.cfg → m.regs = (cycleState^[before.length] (s.withInputs before)).regs →
      m.nextInput = c → (cycleState m).out = .none ∧ (cycleState m).regs = m.regs) :
    forwarded (portTrace (before.length + 1 + after.length) (s.withInputs (before ++ c :: after))) =
      forwarded (portTrace (before.length + after.length) (s.withInputs (before ++ after))) ∧
    ∃ u v : State,
      Sys2Proof.core.run (before.length + 1 + after.length) (s.withInputs (before ++ c :: after)) = .next u ∧
      Sys2Proof.core.run (before.length + after.length) (s.withInputs (before ++ after)) = .next v ∧
      u.regs = v.regs := by
  obtain ⟨htrace, hregs, hin⟩ := run_append s before (c :: after)
  obtain ⟨htrace', hregs', hin'⟩ := run_append s before after
  have hcfg := iterate_cycleState_cfg before.length (s.withInputs (before ++ c :: after))
  have hcfg' := iterate_cycleState_cfg before.length (s.withInputs (before ++ after))
  generalize hm : cycleState^[before.length] (s.withInputs (before ++ c :: after)) = m at *
  generalize hm' : cycleState^[before.length] (s.withInputs (before ++ after)) = m' at *
  obtain ⟨hout, hkeep⟩ := hsilent m hcfg hregs (nextInput_cons m c after hin)
  obtain ⟨hrest, hend⟩ := run_congr after.length (cycleState m) m' (by rw [cycleState_cfg, hcfg, hcfg']; rfl)
    (by rw [hkeep, hregs, hregs']) (by rw [cycleState_inputs, hin, hin', List.tail_cons])
  constructor
  · have hlength : before.length + 1 + after.length = before.length + (after.length + 1) := by omega
    rw [hlength, portTrace_add, portTrace_add before.length after.length, hm, hm', htrace, htrace',
      portTrace_succ, hout, forwarded_append, forwarded_append, forwarded_cons_none, hrest]
  · refine ⟨_, _, run_eq _ _, run_eq _ _, ?_⟩
    rw [iterate_cycleState_add, iterate_cycleState_add before.length after.length, Function.iterate_succ_apply',
      hm, hm', hend]

/-! ### Registers that no rule reads -/

/-- The state with other values in `last_detent_ts` and `last_raw`. -/
def State.withSeen (s : State) (ts : Option Nat) (raw : PerGate (Option Nat)) : State :=
  { s with regs := { s.regs with lastDetentTs := ts, lastRaw := raw } }

theorem gateEvent_withSeen (ev : RawEvent) (t : Nat) (s : State) (ts : Option Nat) (raw : PerGate (Option Nat)) :
    gateEvent ev t (s.withSeen ts raw) = (gateEvent ev t s).withSeen ts (raw.set ev.gate (some t)) := by
  by_cases h : Rejected s.cfg ev.gate (s.regs.lastAcc.get ev.gate) t
  · rw [gateEvent_of_rejected h, gateEvent_of_rejected (s := s.withSeen ts raw) h]; rfl
  · rw [gateEvent_of_not_rejected h, gateEvent_of_not_rejected (s := s.withSeen ts raw) h]; rfl

theorem decodeEdge_withSeen (pin : Pin) (level : Bit) (t : Nat) (s : State) (ts : Option Nat)
    (raw : PerGate (Option Nat)) :
    ∃ ts' raw', decodeEdge pin level t (s.withSeen ts raw) = (decodeEdge pin level t s).withSeen ts' raw' := by
  by_cases h : CompletesClick pin level s.regs
  · refine ⟨some t, raw.set (streamGate s.regs.rotStream) (some t), ?_⟩
    rw [decodeEdge_of_click h, decodeEdge_of_click (s := s.withSeen ts raw) h]
    exact gateEvent_withSeen (.detent s.regs.rotStream (dirOf s.regs.armed)) t
      ((decodedState pin level s s.regs.armed).writeLastDetentTs (some t)) (some t) raw
  · refine ⟨ts, raw, ?_⟩
    rw [decodeEdge_of_not_click h, decodeEdge_of_not_click (s := s.withSeen ts raw) h]; rfl

theorem execState_withSeen (i : Instr) (s : State) (ts : Option Nat) (raw : PerGate (Option Nat)) :
    ∃ ts' raw', execState i (s.withSeen ts raw) = (execState i s).withSeen ts' raw' := by
  cases i using instr_by_kind with
  | nop => exact ⟨ts, raw, rfl⟩
  | edge pin level t =>
    rw [execState_edgeInstr, execState_edgeInstr]
    exact decodeEdge_withSeen pin level t s ts raw
  | btnEdge level t => exact ⟨ts, _, gateEvent_withSeen (.button level) t (s.present .none Strobes.quiet) ts raw⟩
  | page stream mask => exact ⟨ts, raw, rfl⟩

theorem cycleState_withSeen (s : State) (ts : Option Nat) (raw : PerGate (Option Nat)) :
    ∃ ts' raw', cycleState (s.withSeen ts raw) = (cycleState s).withSeen ts' raw' := by
  have hact : (s.withSeen ts raw).nextAction = s.nextAction := rfl
  cases h : s.nextAction with
  | reset => rw [cycleState_of_reset h, cycleState_of_reset (hact.trans h)]; exact ⟨none, Regs.reset.lastRaw, rfl⟩
  | idle => rw [cycleState_of_idle h, cycleState_of_idle (hact.trans h)]; exact ⟨ts, raw, rfl⟩
  | event i =>
    rw [cycleState_of_event h, cycleState_of_event (hact.trans h)]
    exact execState_withSeen i s.dropInput ts raw
  | illegal why => rw [cycleState_of_illegal h, cycleState_of_illegal (hact.trans h)]; exact ⟨ts, raw, rfl⟩

/-! ### The statements -/

/-- The edge procedure on a level that is stored already (40_quadrature_decoder.md R102, R105, R106). -/
theorem execState_sameLevel {s : State} (hinv : Inv s) (pin : Pin) (ts : Nat) :
    execState (edgeInstr pin (s.regs.level pin) ts) s =
      { s with out := .none, strobes := { tr := 0b10, det := 0b00, reject := 0 } } := by
  have hstay : newState pin (s.regs.level pin) s.regs = s.regs.lastState := by
    rw [hinv.levelsAgree]; cases pin <;> rfl
  have hnone : ¬ CompletesClick pin (s.regs.level pin) s.regs := fun h => h.1 (by rw [hstay, tt_self])
  have ha : (if pin = .a then s.regs.level pin else s.regs.levelA) = s.regs.levelA := by cases pin <;> rfl
  have hb : (if pin = .b then s.regs.level pin else s.regs.levelB) = s.regs.levelB := by cases pin <;> rfl
  have harmed : armedAfter s.regs.lastState s.regs.lastState .zero s.regs.armed = s.regs.armed := by
    unfold armedAfter
    by_cases hz : s.regs.lastState = Config.home
    · rw [if_pos hz]; exact (hinv.armedAway.mpr hz).symm
    · rw [if_neg hz, if_neg hz]
  rw [execState_edgeInstr, decodeEdge_of_not_click hnone, decodedState, ha, hb, hstay, tt_self, harmed]
  rfl

/-- Settles O23: the combined state stays, so the table value is 0, no click completes and `armed` keeps its value. -/
theorem sameStateEdgeChangesNoRegister : Obligations.SameStateEdgeChangesNoRegister := by
  intro pin ts s hinv
  rw [exec_eq, execState_sameLevel hinv]

theorem nextAction_of_delivered {s : State} {i : Instr} (h : s.nextInput.delivered s.cfg.tsWidth = some i) :
    s.nextAction = .event i := by
  unfold InPorts.delivered at h
  rw [State.nextAction]
  split at h <;> simp_all

/-- Settles O31: where the cycle stands the invariants hold, and there it presents no record and keeps the registers. -/
theorem sameStateEventsCanBeDeleted : Obligations.SameStateEventsCanBeDeleted := by
  intro s m before after c pin ts hinv hrun hdelivered
  have hm : m = cycleState^[before.length] (s.withInputs before) := next_inj (hrun.symm.trans (run_eq _ _))
  have hinvm : Inv m := hm ▸ iterate_cycleState_keeps_inv _ (hinv.congr rfl rfl)
  refine cycle_can_be_deleted s before after c fun n hcfg hregs hnext => ?_
  have hregs' : n.regs = m.regs := by rw [hregs, hm]
  have hcfgm : m.cfg = s.cfg := by rw [hm, iterate_cycleState_cfg]; rfl
  have hact : n.nextAction = .event (edgeInstr pin (n.regs.level pin) ts) :=
    nextAction_of_delivered (by rw [hnext, hcfg, hdelivered, hregs'])
  have hinvn : Inv n.dropInput := hinvm.congr (hcfg.trans hcfgm.symm) hregs'
  rw [cycleState_of_event hact]
  have hexec := execState_sameLevel hinvn pin ts
  exact ⟨congrArg State.out hexec, (congrArg State.regs hexec).trans rfl⟩

/-- Settles O44, by induction on the number of cycles: the two states stay alike but for the two registers. -/
theorem rawAndDetentTimestampsAreNeverRead : Obligations.RawAndDetentTimestampsAreNeverRead := by
  intro n s ts raw
  show portTrace n (s.withSeen ts raw) = portTrace n s
  induction n generalizing s ts raw with
  | zero => rfl
  | succ n ih =>
    obtain ⟨ts', raw', hcycle⟩ := cycleState_withSeen s ts raw
    rw [portTrace_succ, portTrace_succ, hcycle, ih]
    rfl

/-- Settles O49: `NOP` and an idle cycle present no record and keep the registers in every state. -/
theorem nopsAndIdleCyclesCanBeDeleted : Obligations.NopsAndIdleCyclesCanBeDeleted := by
  intro s before after c hc
  refine cycle_can_be_deleted s before after c fun m hcfg _ hnext => ?_
  rw [← hcfg, ← hnext] at hc
  obtain hnop | hidle := hc
  · rw [cycleState_of_event hnop]; exact ⟨rfl, rfl⟩
  · rw [cycleState_of_idle hidle]; exact ⟨rfl, rfl⟩

end Sys2Proof.Machine
end

section
/-! The gates: elapsed time, verdicts, what is written and what is forwarded (41_debounce_speed.md), each from the
relation of the gate procedure. -/

namespace Sys2Proof.Machine

/-! ### Elapsed time (41_debounce_speed.md R132, R144) -/

theorem elapsedNat_of_lt {tsWidth a t : Nat} (hlt : t < a) (hlap : a - t < 2 ^ tsWidth) :
    elapsedNat tsWidth a t = 2 ^ tsWidth - (a - t) := by
  unfold elapsedNat
  generalize 2 ^ tsWidth = m at *
  have hlap' : ((t : Int) - a) + m = ((m - (a - t) : Nat) : Int) := by omega
  rw [← Int.add_emod_right, hlap', ← Int.natCast_mod, Int.toNat_natCast, Nat.mod_eq_of_lt (by omega)]

/-- Timestamps delivered modulo a lap keep the true time between them, modulo a lap (70_reset_and_hazards.md R207). -/
theorem elapsedNat_wrapped {tsWidth a t : Nat} (h : a ≤ t) :
    elapsedNat tsWidth (a % 2 ^ tsWidth) (t % 2 ^ tsWidth) = (t - a) % 2 ^ tsWidth := by
  rw [elapsedNat_mod, elapsedNat_of_le h]

/-! ### The verdict -/

theorem rejected_some_iff (cfg : Cfg) (g : Gate) (a t : Nat) :
    Rejected cfg g (some a) t ↔ elapsedNat cfg.tsWidth a t < cfg.minInterval.get g := by
  simp [Rejected]

section GateSpec

variable {ev : RawEvent} {t : Nat} {s u : State}

theorem GateSpec.reject_eq_one_iff (h : GateSpec ev t s u) :
    u.strobes.reject = 1 ↔ Rejected s.cfg ev.gate (s.regs.lastAcc.get ev.gate) t := by
  by_cases hr : Rejected s.cfg ev.gate (s.regs.lastAcc.get ev.gate) t
  · obtain ⟨-, -, hone⟩ := h.reject hr
    exact iff_of_true hone hr
  · obtain ⟨-, -, hzero⟩ := h.accept hr
    exact iff_of_false (by rw [hzero]; decide) hr

theorem GateSpec.reject_eq_zero_iff (h : GateSpec ev t s u) :
    u.strobes.reject = 0 ↔ ¬ Rejected s.cfg ev.gate (s.regs.lastAcc.get ev.gate) t := by
  rw [← h.reject_eq_one_iff]
  generalize u.strobes.reject = b
  revert b; decide

theorem GateSpec.lastRaw_gate (h : GateSpec ev t s u) : u.regs.lastRaw.get ev.gate = some t := by
  rw [h.seen, PerGate.get_set_self]

/-- An accepted event is the last seen and the last accepted one (41_debounce_speed.md R136). -/
theorem GateSpec.raw_eq_acc_of_accept (h : GateSpec ev t s u) (hr : u.strobes.reject = 0) :
    u.regs.lastRaw.get ev.gate = u.regs.lastAcc.get ev.gate := by
  obtain ⟨hacc, -, -⟩ := h.accept (h.reject_eq_zero_iff.mp hr)
  rw [h.lastRaw_gate, hacc, PerGate.get_set_self]

theorem GateSpec.raw_eq_acc_iff_of_reject (h : GateSpec ev t s u) (hr : u.strobes.reject = 1) :
    u.regs.lastRaw.get ev.gate = u.regs.lastAcc.get ev.gate ↔ s.regs.lastAcc.get ev.gate = some t := by
  rw [h.lastRaw_gate, h.lastAcc_of_reject hr, eq_comm]

/-- What an event shows and writes at its gate is a function of the parameters and of `last_acc` of the gate
(41_debounce_speed.md R145 G-5). -/
theorem GateSpec.determined {s' u' : State} (h : GateSpec ev t s u) (h' : GateSpec ev t s' u') (hcfg : s.cfg = s'.cfg)
    (hacc : s.regs.lastAcc.get ev.gate = s'.regs.lastAcc.get ev.gate) :
    u.out = u'.out ∧ u.strobes.reject = u'.strobes.reject ∧
    u.regs.lastAcc.get ev.gate = u'.regs.lastAcc.get ev.gate ∧
    u.regs.lastRaw.get ev.gate = u'.regs.lastRaw.get ev.gate := by
  have hraw := h.lastRaw_gate.trans h'.lastRaw_gate.symm
  by_cases hr : Rejected s.cfg ev.gate (s.regs.lastAcc.get ev.gate) t
  · obtain ⟨hkeep, hout, hreject⟩ := h.reject hr
    rw [hcfg, hacc] at hr
    obtain ⟨hkeep', hout', hreject'⟩ := h'.reject hr
    exact ⟨hout.trans hout'.symm, hreject.trans hreject'.symm, by rw [hkeep, hkeep', hacc], hraw⟩
  · obtain ⟨hset, hout, hreject⟩ := h.accept hr
    rw [hcfg, hacc] at hr hout
    obtain ⟨hset', hout', hreject'⟩ := h'.accept hr
    exact ⟨hout.trans hout'.symm, hreject.trans hreject'.symm,
      by rw [hset, hset', PerGate.get_set_self, PerGate.get_set_self], hraw⟩

end GateSpec

/-! ### The statements about verdicts -/

/-- Settles O32: the subtractor computes the modular difference, in its two cases. -/
theorem elapsedIsTheModularDifference : Obligations.ElapsedIsTheModularDifference := by
  intro tsWidth a t
  rw [elapsed_eq]
  refine ⟨rfl, elapsedNat_lt tsWidth a t, fun hle hlap => ?_, elapsedNat_of_lt⟩
  rw [elapsedNat_of_le hle, Nat.mod_eq_of_lt hlap]

/-- Settles O33: the gate judges, and the speed is measured, by the elapsed time of the delivered timestamps. -/
theorem wrappingTimestampsKeepTheElapsedTime : Obligations.WrappingTimestampsKeepTheElapsedTime := by
  refine ⟨fun level a t s hle hprior => ⟨_, exec_eq _ s, ?_⟩, fun pin level a t s hle hclick hprior =>
    ⟨_, exec_eq _ s, ?_, fun haccept => ?_⟩⟩
  · have hprior' : s.regs.lastAcc.get (RawEvent.button level).gate = some (a % 2 ^ s.cfg.tsWidth) := hprior
    rw [(execState_btnEdge_spec level _ s).reject_eq_one_iff, hprior', rejected_some_iff, elapsedNat_wrapped hle]
    rfl
  · have hgate := execState_gateSpec_of_click hclick (t % 2 ^ s.cfg.tsWidth)
    rw [hgate.reject_eq_one_iff, RawEvent.gate, hprior, rejected_some_iff, elapsedNat_wrapped hle]
  · have hgate := execState_gateSpec_of_click hclick (t % 2 ^ s.cfg.tsWidth)
    obtain ⟨-, hout, -⟩ := hgate.accept (hgate.reject_eq_zero_iff.mp haccept)
    refine ⟨_, _, hout, ?_⟩
    rw [specSpeed_toNat, RawEvent.gate, hprior, specSpeed, elapsedNat_wrapped hle]

/-- Settles O34: the word is the timestamp, the level and the pattern side by side, and the gate procedure touches the
button gate alone. -/
theorem buttonEdgeRunsTheButtonGate : Obligations.ButtonEdgeRunsTheButtonGate := by
  intro level ts s
  have hcmd : ∀ level : Bit, (cmdBit level 3 ||| rowBtnEdge.pattern).toNat = level.toNat <<< 3 ||| 3 := by decide
  have hspec := execState_btnEdge_spec level ts s
  obtain ⟨hcfg, hinputs⟩ := execState_keeps (.btnEdge level ts) s
  obtain ⟨htr, hdet⟩ := execState_btnEdge_det level ts s
  refine ⟨?_, _, exec_eq _ s, hspec, hcfg, hinputs, execState_btnEdge_frame level ts s, ?_, ?_, htr, hdet⟩
  · rw [Nat.lor_assoc, ← hcmd]; rfl
  · exact (hspec.other_gates (g := .menu) (by simp [RawEvent.gate])).2
  · exact (hspec.other_gates (g := .pot) (by simp [RawEvent.gate])).2

/-- Settles O35: the gate's relation for a button edge, and for an edge event that completes a click. -/
theorem rawEventsAreJudgedAgainstTheLastAccepted : Obligations.RawEventsAreJudgedAgainstTheLastAccepted := by
  refine ⟨fun level ts s => ⟨_, exec_eq _ s, ?_⟩, fun pin level ts s => ⟨_, exec_eq _ s, fun hdet => ?_⟩⟩
  · have hspec := execState_btnEdge_spec level ts s
    exact ⟨hspec.seen, hspec.lastAcc_of_reject, hspec.reject_eq_one_iff⟩
  · have hspec := execState_edge_spec pin level ts s
    have hgate := hspec.gateSpec_of_click (hspec.completesClick_iff.mpr hdet)
    exact ⟨hgate.seen, hgate.lastAcc_of_reject, hgate.reject_eq_one_iff⟩

/-- Settles O36: after an accept both registers hold the event's timestamp, after a reject `last_acc` is the old one. -/
theorem rawEqualsAcceptedAfterAnAccept : Obligations.RawEqualsAcceptedAfterAnAccept := by
  refine ⟨fun level ts s => ⟨_, exec_eq _ s, ?_⟩, fun pin level ts s hclick => ⟨_, exec_eq _ s, ?_⟩⟩
  · have hspec := execState_btnEdge_spec level ts s
    exact ⟨hspec.raw_eq_acc_of_accept, hspec.raw_eq_acc_iff_of_reject⟩
  · have hgate := execState_gateSpec_of_click hclick ts
    exact ⟨hgate.raw_eq_acc_of_accept, hgate.raw_eq_acc_iff_of_reject⟩

/-- An edge event whose detent the gate rejects has completed a click. -/
theorem EdgeSpec.click_of_reject {pin : Pin} {level : Bit} {t : Nat} {s u : State} (h : EdgeSpec pin level t s u)
    (hr : u.strobes.reject = 1) : CompletesClick pin level s.regs := by
  by_contra hc
  obtain ⟨-, hzero, -⟩ := h.noDetent hc
  exact absurd (hzero.symm.trans hr) (by decide)

/-- The registers after a rejected detent: the decoder's writes, `last_detent_ts` and `last_raw` of the gate. -/
theorem regs_of_rejected_detent {pin : Pin} {level : Bit} {t : Nat} {s : State}
    (hclick : CompletesClick pin level s.regs)
    (hr : Rejected s.cfg (streamGate s.regs.rotStream) (s.regs.lastAcc.get (streamGate s.regs.rotStream)) t) :
    (decodeEdge pin level t s).regs =
      { s.regs with
        levelA := if pin = .a then level else s.regs.levelA
        levelB := if pin = .b then level else s.regs.levelB
        lastState := 0
        armed := .zero
        lastDetentTs := some t
        lastRaw := s.regs.lastRaw.set (streamGate s.regs.rotStream) (some t) } := by
  have ⟨_, hhome, _⟩ := hclick
  have hr' : Rejected ((decodedState pin level s s.regs.armed).writeLastDetentTs (some t)).cfg
    (RawEvent.detent s.regs.rotStream (dirOf s.regs.armed)).gate
    (((decodedState pin level s s.regs.armed).writeLastDetentTs (some t)).regs.lastAcc.get
      (RawEvent.detent s.regs.rotStream (dirOf s.regs.armed)).gate) t := hr
  rw [decodeEdge_of_click hclick, gateEvent_of_rejected hr', decodedState, hhome]
  rfl

/-- Settles O37: a rejection comes from a button edge or from an edge event that completes a click. -/
theorem rejectedEventKeepsTheDecodersWrites : Obligations.RejectedEventKeepsTheDecodersWrites := by
  intro i s u hexec hreject
  obtain rfl := eq_execState hexec
  cases i using instr_by_kind with
  | nop => exact absurd (show (0 : Bit) = 1 from hreject) (by decide)
  | page stream mask => exact absurd (show (0 : Bit) = 1 from hreject) (by decide)
  | btnEdge level ts =>
    have hspec := execState_btnEdge_spec level ts s
    have hrejected := hspec.reject_eq_one_iff.mp hreject
    obtain ⟨-, hout, -⟩ := hspec.reject hrejected
    refine ⟨hout, .inl ⟨level, ts, rfl, ?_⟩⟩
    exact congrArg State.regs (gateEvent_of_rejected (s := s.present .none Strobes.quiet) hrejected)
  | edge pin level ts =>
    have hspec := execState_edge_spec pin level ts s
    have hclick := hspec.click_of_reject hreject
    have hgate := hspec.gateSpec_of_click hclick
    have hrejected := hgate.reject_eq_one_iff.mp hreject
    obtain ⟨-, hout, -⟩ := hgate.reject hrejected
    refine ⟨hout, .inr ⟨pin, level, ts, rfl, hclick, ?_⟩⟩
    rw [execState_edgeInstr]
    exact regs_of_rejected_detent hclick hrejected

/-! ### The record of an accepted detent -/

/-- What stands behind a `ROT` record: an accepted detent of the selected stream, with its direction, measured speed and
tier (41_debounce_speed.md R136 to R141). -/
structure ForwardedDetent (i : Instr) (s : State) (dir : Dir) (stream : Stream) (speed : BitVec 10)
    (change : BitVec 7) (ts : Nat) : Prop where
  event : ∃ pin level, i = edgeInstr pin level ts ∧ CompletesClick pin level s.regs
  accepted : ¬ Rejected s.cfg (streamGate stream) (s.regs.lastAcc.get (streamGate stream)) ts
  dir_eq : dir = dirOf s.regs.armed
  stream_eq : stream = s.regs.rotStream
  speed_eq : speed.toNat = specSpeed s.cfg.tsWidth (s.regs.lastAcc.get (streamGate stream)) ts
  change_eq : change = if s.cfg.speedThreshold ≤ speed.toNat then 100 else 10

theorem EdgeSpec.click_of_out {pin : Pin} {level : Bit} {t : Nat} {s u : State} (h : EdgeSpec pin level t s u)
    (ho : u.out ≠ .none) : CompletesClick pin level s.regs := by
  by_contra hc
  obtain ⟨-, -, hnone, -⟩ := h.noDetent hc
  exact ho hnone

theorem GateSpec.accepted_of_out {ev : RawEvent} {t : Nat} {s u : State} (h : GateSpec ev t s u) (ho : u.out ≠ .none) :
    ¬ Rejected s.cfg ev.gate (s.regs.lastAcc.get ev.gate) t := by
  intro hr
  obtain ⟨-, hnone, -⟩ := h.reject hr
  exact ho hnone

/-- Only an accepted detent forwards a `ROT` record. -/
theorem forwardedDetent_of_out {i : Instr} {s : State} {dir : Dir} {stream : Stream} {speed : BitVec 10}
    {change : BitVec 7} {ts : Nat} (h : (execState i s).out = .rot dir stream speed change ts) :
    ForwardedDetent i s dir stream speed change ts := by
  have hne : (execState i s).out ≠ .none := by simp [h]
  cases i using instr_by_kind with
  | nop => exact absurd rfl hne
  | page stream mask => exact absurd rfl hne
  | btnEdge level t =>
    have hspec := execState_btnEdge_spec level t s
    obtain ⟨-, hout, -⟩ := hspec.accept (hspec.accepted_of_out hne)
    rw [h] at hout
    cases hout
  | edge pin level t =>
    have hspec := execState_edge_spec pin level t s
    have hclick := hspec.click_of_out hne
    have hgate := hspec.gateSpec_of_click hclick
    have haccepted := hgate.accepted_of_out hne
    obtain ⟨-, hout, -⟩ := hgate.accept haccepted
    rw [h] at hout
    cases hout
    exact ⟨⟨pin, level, rfl, hclick⟩, haccepted, rfl, rfl, specSpeed_toNat _ _ _, by rw [specSpeed_toNat]⟩

/-- An accepted detent is at least the interval after the last accepted one, which bounds its speed
(41_debounce_speed.md R145 G-3). -/
theorem specSpeed_le_of_not_rejected {cfg : Cfg} {g : Gate} {prior : Option Nat} {t : Nat}
    (haccepted : ¬ Rejected cfg g prior t) (hinterval : 1 ≤ cfg.minInterval.get g) :
    specSpeed cfg.tsWidth prior t ≤ min 1000 (1000000 / cfg.minInterval.get g) := by
  refine le_min (specSpeed_le _ _ _) ?_
  cases prior with
  | none => exact Nat.zero_le _
  | some a =>
    rw [rejected_some_iff, not_lt] at haccepted
    have hne : elapsedNat cfg.tsWidth a t ≠ 0 := by omega
    rw [specSpeed, if_neg hne]
    exact (min_le_left _ _).trans (Nat.div_le_div_left haccepted hinterval)

/-- Truncation does not matter to the tier: up to 1000, a threshold is reached exactly when it is reached by the exact
quotient (41_debounce_speed.md R137, R138, R140). -/
theorem le_specSpeed_iff {tsWidth threshold a t : Nat} (h : threshold ≤ 1000) :
    threshold ≤ specSpeed tsWidth (some a) t ↔ threshold * elapsedNat tsWidth a t ≤ 1000000 := by
  simp only [specSpeed]
  by_cases hz : elapsedNat tsWidth a t = 0
  · simp [hz, h]
  · rw [if_neg hz, le_min_iff, and_iff_left h, Nat.le_div_iff_mul_le (Nat.pos_of_ne_zero hz)]

/-- Settles O38: what stands behind the record, and the gate's writes on an accept. -/
theorem rotationRecordIsTheMeasuredSpeed : Obligations.RotationRecordIsTheMeasuredSpeed := by
  intro i s u dir stream speed change ts hexec hout
  obtain rfl := eq_execState hexec
  obtain ⟨⟨pin, level, rfl, hclick⟩, haccepted, rfl, rfl, hspeed, hchange⟩ := forwardedDetent_of_out hout
  obtain ⟨hdet, -, -⟩ := (execState_edge_spec pin level ts s).detent hclick
  obtain ⟨hacc, -, hreject⟩ := (execState_gateSpec_of_click hclick ts).accept haccepted
  refine ⟨⟨pin, level, rfl⟩, rfl, hspeed, hchange, ?_, hreject, hacc⟩
  rw [hdet, dirOf]
  split <;> rfl

/-- Settles O39: the speed of an accepted detent has the ceiling. -/
theorem reportedSpeedHasACeiling : Obligations.ReportedSpeedHasACeiling := by
  intro i s u dir stream speed change ts hexec hout hinterval
  obtain rfl := eq_execState hexec
  have hrec := forwardedDetent_of_out hout
  rw [hrec.speed_eq]
  exact specSpeed_le_of_not_rejected hrec.accepted hinterval

/-- Settles O40: a speed is between 0 and 1000, and in between the exact quotient decides. -/
theorem tierDoesNotDependOnTruncation : Obligations.TierDoesNotDependOnTruncation := by
  intro i s u dir stream speed change ts hexec hout
  obtain rfl := eq_execState hexec
  have hrec := forwardedDetent_of_out hout
  have hmax : speed.toNat ≤ 1000 := hrec.speed_eq ▸ specSpeed_le _ _ _
  have hfast : change = 100 ↔ s.cfg.speedThreshold ≤ speed.toNat := by
    rw [hrec.change_eq]; split <;> simp_all
  refine ⟨fun hzero => hfast.mpr (by omega), fun hhigh => ?_, fun _ hthreshold a hprior => ?_⟩
  · rw [hrec.change_eq, if_neg (by omega)]
  · rw [hfast, hrec.speed_eq, hprior, le_specSpeed_iff hthreshold]

/-- Settles O41: without a prior accepted timestamp the event is accepted and the speed is 0. -/
theorem firstDetentOfAClearedGateIsSlow : Obligations.FirstDetentOfAClearedGateIsSlow := by
  intro pin level ts s hclick hcleared hthreshold
  refine ⟨_, exec_eq _ s, ?_⟩
  have hgate := execState_gateSpec_of_click hclick ts
  obtain ⟨-, hout, -⟩ := hgate.accept (by rw [RawEvent.gate, hcleared]; exact not_rejected_none _ _ _)
  rw [hout, RawEvent.gate, hcleared, specOutput, specSpeed, if_neg (by omega)]
  rfl

end Sys2Proof.Machine
end

section
/-! What the gates have to do with one another, nothing (41_debounce_speed.md R145 G-5), and what the events one gate
forwards have to do with one another: they are at least its interval apart (G-2). -/

namespace Sys2Proof.Machine

/-! ### Independence -/

theorem outPorts_eq {u u' : State} (hcfg : u.cfg = u'.cfg) (hout : u.out = u'.out) (htr : u.strobes.tr = u'.strobes.tr)
    (hdet : u.strobes.det = u'.strobes.det) (hreject : u.strobes.reject = u'.strobes.reject) :
    u.outPorts = u'.outPorts := by
  rw [State.outPorts, State.outPorts, hcfg, hout, htr, hdet, hreject]

/-- Whether an event completes a click is up to the decoder's registers. -/
theorem newState_congr {r r' : Regs} (ha : r.levelA = r'.levelA) (hb : r.levelB = r'.levelB) (pin : Pin) (level : Bit) :
    newState pin level r = newState pin level r' := by
  rw [← newState_eq, ← newState_eq, ha, hb]

theorem EdgeSpec.independent {pin : Pin} {level : Bit} {t : Nat} {s s' u u' : State} (h : EdgeSpec pin level t s u)
    (h' : EdgeSpec pin level t s' u') (hcfg : s.cfg = s'.cfg) (ha : s.regs.levelA = s'.regs.levelA)
    (hb : s.regs.levelB = s'.regs.levelB) (hlast : s.regs.lastState = s'.regs.lastState)
    (harmed : s.regs.armed = s'.regs.armed) (hstream : s.regs.rotStream = s'.regs.rotStream)
    (hacc : s.regs.lastAcc.get (streamGate s.regs.rotStream) = s'.regs.lastAcc.get (streamGate s.regs.rotStream)) :
    u.outPorts = u'.outPorts ∧
    u.regs.lastAcc.get (streamGate s.regs.rotStream) = u'.regs.lastAcc.get (streamGate s.regs.rotStream) := by
  have hnew := newState_congr ha hb pin level
  have hclick : CompletesClick pin level s'.regs ↔ CompletesClick pin level s.regs := by
    rw [CompletesClick, CompletesClick, hnew, hlast, harmed]
  have hucfg : u.cfg = u'.cfg := by rw [h.cfg, h'.cfg, hcfg]
  have htr : u.strobes.tr = u'.strobes.tr := by rw [h.tr, h'.tr, hnew, hlast]
  have hdet : u.strobes.det = u'.strobes.det := by rw [h.det_eq, h'.det_eq, hnew, hlast, harmed]
  by_cases hc : CompletesClick pin level s.regs
  · have hgate := h.gateSpec_of_click hc
    have hgate' := h'.gateSpec_of_click (hclick.mpr hc)
    rw [← hstream, ← harmed] at hgate'
    obtain ⟨hout, hreject, haccAfter, -⟩ := hgate.determined hgate' hcfg hacc
    exact ⟨outPorts_eq hucfg hout htr hdet hreject, haccAfter⟩
  · obtain ⟨-, hr, ho, -, hkeep, -⟩ := h.noDetent hc
    obtain ⟨-, hr', ho', -, hkeep', -⟩ := h'.noDetent (mt hclick.mp hc)
    exact ⟨outPorts_eq hucfg (ho.trans ho'.symm) htr hdet (hr.trans hr'.symm), by rw [hkeep, hkeep', hacc]⟩

/-- Settles O43: what an event shows and writes at its gate is determined by what the statement lets it read, and the
other gates are left alone. -/
theorem gatesAreIndependent : Obligations.GatesAreIndependent := by
  refine ⟨fun level ts s s' hcfg hacc => ⟨_, _, exec_eq _ s, exec_eq _ s', ?_⟩,
    fun pin level ts s s' hcfg ha hb hlast harmed hstream hacc => ⟨_, _, exec_eq _ s, exec_eq _ s', ?_⟩⟩
  · have hspec := execState_btnEdge_spec level ts s
    have hspec' := execState_btnEdge_spec level ts s'
    obtain ⟨htr, hdet⟩ := execState_btnEdge_det level ts s
    obtain ⟨htr', hdet'⟩ := execState_btnEdge_det level ts s'
    obtain ⟨hout, hreject, haccAfter, hrawAfter⟩ := hspec.determined hspec' hcfg hacc
    have hucfg : (execState (.btnEdge level ts) s).cfg = (execState (.btnEdge level ts) s').cfg := by
      rw [(execState_keeps _ s).1, (execState_keeps _ s').1, hcfg]
    exact ⟨outPorts_eq hucfg hout (htr.trans htr'.symm) (hdet.trans hdet'.symm) hreject, haccAfter, hrawAfter,
      fun g hg => (hspec.other_gates hg).symm⟩
  · have hspec := execState_edge_spec pin level ts s
    obtain ⟨hports, haccAfter⟩ := hspec.independent (execState_edge_spec pin level ts s') hcfg ha hb hlast
      harmed hstream
      (by rw [hacc])
    obtain ⟨-, -, -, hothers⟩ := hspec.gate_writes
    exact ⟨hports, haccAfter, fun g hg => (hothers g hg).symm⟩

/-! ### Spacing -/

/-- What gate `g` forwards between `s` and `u`, which does not clear it: nothing, and its `last_acc` stays, or one event
at least the interval after the last accepted one, which `last_acc` then holds. -/
def ForwardsSpaced (g : Gate) (s u : State) : Prop :=
  (u.out.tsFrom g = none ∧ u.regs.lastAcc.get g = s.regs.lastAcc.get g) ∨
  (∃ t, u.out.tsFrom g = some t ∧ u.regs.lastAcc.get g = some t ∧
    ∀ a, s.regs.lastAcc.get g = some a → s.cfg.minInterval.get g ≤ elapsedNat s.cfg.tsWidth a t)

theorem tsFrom_specOutput (g : Gate) (cfg : Cfg) (prior : Option Nat) (t : Nat) (ev : RawEvent) :
    (specOutput cfg prior t ev).tsFrom g = if g = ev.gate then some t else none := by
  cases ev with
  | detent stream dir => simp only [specOutput, OutRec.tsFrom, RawEvent.gate, eq_comm (a := g)]
  | button level => rfl

theorem GateSpec.forwardsSpaced {ev : RawEvent} {t : Nat} {s u : State} (h : GateSpec ev t s u) (g : Gate) :
    ForwardsSpaced g s u := by
  by_cases hr : Rejected s.cfg ev.gate (s.regs.lastAcc.get ev.gate) t
  · obtain ⟨hacc, hout, -⟩ := h.reject hr
    exact .inl ⟨by rw [hout]; rfl, by rw [hacc]⟩
  · obtain ⟨hacc, hout, -⟩ := h.accept hr
    by_cases hg : g = ev.gate
    · subst hg
      refine .inr ⟨t, by rw [hout, tsFrom_specOutput, if_pos rfl], by rw [hacc, PerGate.get_set_self], fun a ha => ?_⟩
      rwa [ha, rejected_some_iff, not_lt] at hr
    · exact .inl ⟨by rw [hout, tsFrom_specOutput, if_neg hg], (h.other_gates hg).2⟩

theorem execState_forwardsSpaced {i : Instr} {g : Gate}
    (hclear : ∀ stream mask, i = .page stream mask → mask.get g = false)
    (s : State) : ForwardsSpaced g s (execState i s) := by
  cases i using instr_by_kind with
  | nop => exact .inl ⟨rfl, rfl⟩
  | btnEdge level ts => exact (execState_btnEdge_spec level ts s).forwardsSpaced g
  | page stream mask =>
    refine .inl ⟨rfl, (clearNamed_get mask s.regs.lastAcc g).trans ?_⟩
    rw [hclear stream mask rfl]
    rfl
  | edge pin level ts =>
    have hspec := execState_edge_spec pin level ts s
    by_cases hc : CompletesClick pin level s.regs
    · exact (hspec.gateSpec_of_click hc).forwardsSpaced g
    · obtain ⟨-, -, hout, -, hacc, -⟩ := hspec.noDetent hc
      exact .inl ⟨by rw [hout]; rfl, by rw [hacc]⟩

theorem cycleState_forwardsSpaced {s : State} {g : Gate} (hrst : s.nextInput.rst = false)
    (hclear : s.nextInput.clears s.cfg.tsWidth g = false) : ForwardsSpaced g s (cycleState s) := by
  cases hact : s.nextAction with
  | reset => exact absurd hact (action_ne_reset hrst s.cfg.tsWidth)
  | idle => rw [cycleState_of_idle hact]; exact .inl ⟨rfl, rfl⟩
  | illegal why => rw [cycleState_of_illegal hact]; exact .inl ⟨rfl, rfl⟩
  | event i =>
    rw [cycleState_of_event hact]
    refine execState_forwardsSpaced (fun stream mask hi => ?_) s.dropInput
    rw [InPorts.clears, InPorts.delivered, ← State.nextAction, hact, hi] at hclear
    exact hclear

/-- The timestamps that a gate forwards in a trace, cycle by cycle. -/
theorem forwarded_filterMap_cons (g : Gate) (o : OutRec) (st : Strobes) (xs : List (OutRec × Strobes)) :
    (forwarded ((o, st) :: xs)).filterMap (OutRec.tsFrom g) =
      (o.tsFrom g).toList ++ (forwarded xs).filterMap (OutRec.tsFrom g) := by
  by_cases ho : o = .none
  · rw [ho, forwarded_cons_none]; rfl
  · cases hts : o.tsFrom g <;> simp [forwarded, ho, hts]

/-- The invariant behind the spacing: the last accepted timestamp of the gate, then those it forwards from now on, are
each at least the interval apart. -/
theorem forwarded_spaced_from_lastAcc (g : Gate) (n : Nat) (s : State)
    (h : ∀ c ∈ s.inputs, c.rst = false ∧ c.clears s.cfg.tsWidth g = false) :
    ((s.regs.lastAcc.get g).toList ++ (forwarded (portTrace n s)).filterMap (OutRec.tsFrom g)).IsChain
      fun a t => s.cfg.minInterval.get g ≤ elapsedNat s.cfg.tsWidth a t := by
  induction n generalizing s with
  | zero => cases s.regs.lastAcc.get g <;> simp [portTrace, forwarded]
  | succ n ih =>
    have hnext : s.nextInput.rst = false ∧ s.nextInput.clears s.cfg.tsWidth g = false := by
      cases hin : s.inputs with
      | nil => rw [nextInput_nil s hin]; exact ⟨rfl, rfl⟩
      | cons c cs => rw [nextInput_cons s c cs hin]; exact h c (by simp [hin])
    have hrest := ih (cycleState s) fun c hc => by
      rw [cycleState_inputs] at hc
      rw [cycleState_cfg]
      exact h c (List.mem_of_mem_tail hc)
    rw [cycleState_cfg] at hrest
    rw [portTrace_succ, forwarded_filterMap_cons]
    obtain ⟨hnone, hacc⟩ | ⟨t, hsome, hacc, hspace⟩ := cycleState_forwardsSpaced hnext.1 hnext.2
    · rw [hnone, ← hacc]; exact hrest
    · rw [hacc] at hrest
      rw [hsome]
      cases hprior : s.regs.lastAcc.get g with
      | none => exact hrest
      | some a => exact List.isChain_cons_cons.mpr ⟨hspace a hprior, hrest⟩

/-- Settles O42: the forwarded timestamps are the end of the chain that starts with the last accepted one. -/
theorem forwardedEventsAreSpaced : Obligations.ForwardedEventsAreSpaced := fun g n s h =>
  (forwarded_spaced_from_lastAcc g n s h).right_of_append

end Sys2Proof.Machine
end

section
/-! The complete meaning of each operation in every state, and what the host sees of it on the output and status ports
(30_encoding.md R77, R78; 42_control_events.md; 60_exceptions.md). -/

namespace Sys2Proof.Machine

/-! ### The operations in every state -/

/-- Settles O21: the edge procedure meets its relation in every state. -/
theorem edgeEventsRunTheEdgeProcedure : Obligations.EdgeEventsRunTheEdgeProcedure := fun level ts s =>
  ⟨⟨_, exec_eq _ s, execState_edgeA_spec level ts s⟩, ⟨_, exec_eq _ s, execState_edgeB_spec level ts s⟩⟩

/-- Settles O45: `NOP` presents no output and does nothing else. -/
theorem nopChangesNoRegister : Obligations.NopChangesNoRegister := fun s => exec_eq .nop s

/-- Settles O46: `PAGE` selects, clears and presents no output. -/
theorem pageSelectsTheStreamAndClearsTheNamedGates : Obligations.PageSelectsTheStreamAndClearsTheNamedGates :=
  fun stream mask s => exec_eq (.page stream mask) s

/-- Settles O47: the gate of the page entered is in the mask, so it is cleared; the button gate is not in the mask of
the recommended event. -/
theorem pageDutyLeavesNoStaleInterval : Obligations.PageDutyLeavesNoStaleInterval := by
  intro entered s
  refine ⟨fun i hduty => ?_, ⟨_, rfl, by cases entered <;> rfl⟩, ⟨_, exec_eq _ s, rfl⟩⟩
  obtain ⟨mask, rfl, hnamed⟩ := hduty
  refine ⟨_, exec_eq _ s, rfl, (clearNamed_get mask s.regs.lastAcc (streamGate entered.stream)).trans ?_⟩
  rw [hnamed]
  rfl

/-! ### The reports of a cycle -/

/-- The three abnormal reports of 60_exceptions.md R180 exclude each other. -/
structure ReportsExclusive (u : State) : Prop where
  bounce  : u.strobes.tr = 0b10 → u.strobes.reject = 0 ∧ u.strobes.det = 0 ∧ u.out = .none
  reject  : u.strobes.reject = 1 → u.strobes.tr ≠ 0b10 ∧ u.out = .none
  illegal : u.out = .illegal → u.strobes = { tr := 0, det := 0, reject := 0 }

theorem reportsExclusive_of_quiet {u : State} (h : u.strobes = Strobes.quiet) : ReportsExclusive u where
  bounce htr := by rw [h] at htr; exact absurd htr (by decide)
  reject hr := by rw [h] at hr; exact absurd hr (by decide)
  illegal _ := h

theorem GateSpec.out_ne_illegal {ev : RawEvent} {t : Nat} {s u : State} (h : GateSpec ev t s u) : u.out ≠ .illegal := by
  by_cases hr : Rejected s.cfg ev.gate (s.regs.lastAcc.get ev.gate) t
  · obtain ⟨-, hout, -⟩ := h.reject hr
    simp [hout]
  · obtain ⟨-, hout, -⟩ := h.accept hr
    cases ev <;> simp [hout, specOutput]

theorem GateSpec.out_of_reject {ev : RawEvent} {t : Nat} {s u : State} (h : GateSpec ev t s u)
    (hr : u.strobes.reject = 1) : u.out = .none := by
  obtain ⟨-, hout, -⟩ := h.reject (h.reject_eq_one_iff.mp hr)
  exact hout

/-- A click is a valid transition, so it is no bounce. -/
theorem EdgeSpec.tr_ne_of_click {pin : Pin} {level : Bit} {t : Nat} {s u : State} (h : EdgeSpec pin level t s u)
    (hvalid : tt s.regs.lastState (newState pin level s.regs) ≠ .zero) : u.strobes.tr ≠ 0b10 := by
  rw [h.tr]
  cases htt : tt s.regs.lastState (newState pin level s.regs) with
  | zero => exact absurd htt hvalid
  | pos => decide
  | neg => decide

theorem EdgeSpec.reportsExclusive {pin : Pin} {level : Bit} {t : Nat} {s u : State} (h : EdgeSpec pin level t s u) :
    ReportsExclusive u := by
  by_cases hc : CompletesClick pin level s.regs
  · have hgate := h.gateSpec_of_click hc
    have htr := h.tr_ne_of_click hc.1
    exact ⟨fun hb => absurd hb htr, fun hr => ⟨htr, hgate.out_of_reject hr⟩, fun ho => absurd ho hgate.out_ne_illegal⟩
  · obtain ⟨hdet, hr, hout, -⟩ := h.noDetent hc
    exact ⟨fun _ => ⟨hr, hdet, hout⟩, fun hr' => absurd (hr.symm.trans hr') (by decide),
      fun ho => by rw [hout] at ho; cases ho⟩

theorem execState_reportsExclusive (i : Instr) (s : State) : ReportsExclusive (execState i s) := by
  cases i using instr_by_kind with
  | nop => exact reportsExclusive_of_quiet rfl
  | page stream mask => exact reportsExclusive_of_quiet rfl
  | edge pin level ts => exact (execState_edge_spec pin level ts s).reportsExclusive
  | btnEdge level ts =>
    have hspec := execState_btnEdge_spec level ts s
    have htr : (execState (.btnEdge level ts) s).strobes.tr ≠ 0b10 := by
      rw [(execState_btnEdge_det level ts s).1]; decide
    exact ⟨fun hb => absurd hb htr, fun hr => ⟨htr, hspec.out_of_reject hr⟩, fun ho => absurd ho hspec.out_ne_illegal⟩

/-- Settles O50: without an event the strobes are quiet, and an event shows one of the reports at most. -/
theorem abnormalReportsExcludeEachOther : Obligations.AbnormalReportsExcludeEachOther := by
  intro s
  have hexclusive : ReportsExclusive (cycleState s) := by
    cases hact : s.nextAction with
    | reset => rw [cycleState_of_reset hact]; exact reportsExclusive_of_quiet rfl
    | idle => rw [cycleState_of_idle hact]; exact reportsExclusive_of_quiet rfl
    | event i => rw [cycleState_of_event hact]; exact execState_reportsExclusive i s.dropInput
    | illegal why => rw [cycleState_of_illegal hact]; exact reportsExclusive_of_quiet rfl
  obtain ⟨hbounce, hreject, hillegal⟩ := hexclusive
  exact ⟨_, step_eq s, hbounce, hreject, hillegal⟩

/-- Settles O52: only an accepted detent presents a `ROT` record. -/
theorem everyRotationRecordIsLegal : Obligations.EveryRotationRecordIsLegal := by
  intro s
  refine ⟨_, step_eq s, fun dir stream speed change ts hout => ?_⟩
  cases hact : s.nextAction with
  | reset => rw [cycleState_of_reset hact] at hout; cases hout
  | idle => rw [cycleState_of_idle hact] at hout; cases hout
  | illegal why => rw [cycleState_of_illegal hact] at hout; cases hout
  | event i =>
    rw [cycleState_of_event hact] at hout
    have hrec := forwardedDetent_of_out hout
    refine ⟨hrec.speed_eq ▸ specSpeed_le _ _ _, ?_⟩
    rw [hrec.change_eq]
    split
    · exact .inr rfl
    · exact .inl rfl

/-! ### The output word -/

/-- The fields of a word put together by `outFields`, each in its place. -/
theorem slice_outFields {tsWidth ts : Nat} (h : ts < 2 ^ tsWidth) (change : BitVec 7) (speed : BitVec 10)
    (level stream : Bit) (dir kind : BitVec 2) :
    let w := outFields tsWidth ts change speed level stream dir kind
    slice w 0 2 = kind.toNat ∧ slice w 2 2 = dir.toNat ∧ slice w 4 1 = stream.toNat ∧ slice w 5 1 = level.toNat ∧
    slice w 6 10 = speed.toNat ∧ slice w 16 7 = change.toNat ∧ slice w 23 1 = 0 ∧ slice w 24 tsWidth = ts ∧
    w < 2 ^ (tsWidth + 24) := by
  have hchange := change.isLt
  have hspeed := speed.isLt
  have hlevel := level.isLt
  have hstream := stream.isLt
  have hdir := dir.isLt
  have hkind := kind.isLt
  simp only [outFields_eq_add h, slice, Nat.pow_add]
  have hts : (ts * 2 ^ 24 + (change.toNat * 65536 + speed.toNat * 64 + level.toNat * 32 + stream.toNat * 16 +
      dir.toNat * 4 + kind.toNat)) / 2 ^ 24 = ts := by omega
  rw [hts, Nat.mod_eq_of_lt h]
  refine ⟨?_, ?_, ?_, ?_, ?_, ?_, ?_, rfl, ?_⟩ <;> omega

/-- Two fields side by side are one field. -/
theorem slice_add (v lo m n : Nat) : slice v lo (m + n) = slice v lo m + 2 ^ m * slice v (lo + m) n := by
  simp only [slice, Nat.pow_add, Nat.mod_mul, Nat.div_div_eq_div_mul]

/-- Settles O51: the fields of `outFields`, with 0 in those a kind does not use. -/
theorem outputWordFields : Obligations.OutputWordFields := by
  intro tsWidth
  refine ⟨fun dir stream speed change ts hts => ?_, fun level ts hts => ?_, ?_, rfl, rfl, rfl⟩
  · obtain ⟨hkind, hdir, hstream, hlevel, hspeed, hchange, hzero, hword, hlt⟩ :=
      slice_outFields hts change speed 0 (streamBit stream) dir.code 0b01
    exact ⟨hkind, hdir.trans (by cases dir <;> rfl), hstream.trans (by cases stream <;> rfl), hlevel, hspeed, hchange,
      hzero, hword, hlt, rfl⟩
  · obtain ⟨hkind, hdir, hstream, hlevel, hspeed, hchange, hzero, hword, hlt⟩ := slice_outFields hts 0 0 level 0 0 0b10
    refine ⟨hkind, ?_, hlevel, ?_, hword, hlt, rfl⟩
    · rw [slice_add _ 2 2 1, OutRec.word, hdir, hstream]; rfl
    · rw [slice_add _ 6 10 8, slice_add _ 16 7 1, OutRec.word, hspeed, hchange, hzero]; rfl
  · simp [OutRec.word, outFields, slice]

/-! ### The status ports -/

theorem tsPort_some {tsWidth v : Nat} (h : v < 2 ^ tsWidth) : tsPort tsWidth (some v) = { valid := 1, value := v } := by
  simp [tsPort, validBit, valueBits, slice, Nat.mod_eq_of_lt h]

/-- The port of an optional timestamp that fits the width shows it. -/
theorem tsPort_inj {tsWidth : Nat} {v v' : Option Nat} (hv : ∀ t, v = some t → t < 2 ^ tsWidth)
    (hv' : ∀ t, v' = some t → t < 2 ^ tsWidth) (h : tsPort tsWidth v = tsPort tsWidth v') : v = v' := by
  have hvalid := congrArg TsPort.valid h
  have hvalue := congrArg TsPort.value h
  cases v with
  | none =>
    cases v' with
    | none => rfl
    | some t' => exact absurd hvalid (by simp [tsPort, validBit])
  | some t =>
    cases v' with
    | none => exact absurd hvalid (by simp [tsPort, validBit])
    | some t' => rw [tsPort_some (hv t rfl), tsPort_some (hv' t' rfl)] at hvalue; exact congrArg some hvalue

/-- The gate registers on the status outputs. -/
theorem tsPorts_inj {tsWidth : Nat} {x y : PerGate (Option Nat)} (hx : ∀ g t, x.get g = some t → t < 2 ^ tsWidth)
    (hy : ∀ g t, y.get g = some t → t < 2 ^ tsWidth)
    (h : (⟨tsPort tsWidth x.menu, tsPort tsWidth x.pot, tsPort tsWidth x.btn⟩ : PerGate TsPort) =
      ⟨tsPort tsWidth y.menu, tsPort tsWidth y.pot, tsPort tsWidth y.btn⟩) : x = y := by
  apply PerGate.ext_get
  intro g
  have hport := congrArg (·.get g) h
  cases g with
  | menu => exact tsPort_inj (hx .menu) (hy .menu) hport
  | pot => exact tsPort_inj (hx .pot) (hy .pot) hport
  | btn => exact tsPort_inj (hx .btn) (hy .btn) hport

theorem Sgn.code_inj {x y : Sgn} (h : x.code = y.code) : x = y := by
  cases x <;> cases y <;> simp_all [Sgn.code]

theorem streamBit_inj {x y : Stream} (h : streamBit x = streamBit y) : x = y := by
  cases x <;> cases y <;> simp_all [streamBit]

theorem Regs.ext_fields {r r' : Regs} (ha : r.levelA = r'.levelA) (hb : r.levelB = r'.levelB)
    (hlast : r.lastState = r'.lastState) (harmed : r.armed = r'.armed) (hts : r.lastDetentTs = r'.lastDetentTs)
    (hacc : r.lastAcc = r'.lastAcc) (hraw : r.lastRaw = r'.lastRaw) (hstream : r.rotStream = r'.rotStream) :
    r = r' := by
  cases r
  cases r'
  simp_all

/-- Settles O53: every port shows its register. -/
theorem statusPortsShowEveryRegister : Obligations.StatusPortsShowEveryRegister := by
  refine ⟨fun s s' hcfg hfit hfit' hstatus => ?_, fun s => ?_, fun _ => rfl, fun tsWidth v hv => tsPort_some hv⟩
  · rw [State.status, State.status, ← hcfg] at hstatus
    rw [← hcfg] at hfit'
    injection hstatus with ha hb hlast harmed hts hacc hraw hstream
    exact Regs.ext_fields ha hb hlast (Sgn.code_inj harmed) (tsPort_inj hfit.lastDetentTs hfit'.lastDetentTs hts)
      (tsPorts_inj hfit.lastAcc hfit'.lastAcc hacc) (tsPorts_inj hfit.lastRaw hfit'.lastRaw hraw)
      (streamBit_inj hstream)
  · show s.regs.armed.code ≠ 0b10
    cases s.regs.armed <;> decide

end Sys2Proof.Machine
end

section
/-! The assembler's pseudo-instructions (30_encoding.md R80): the event of a `STEP_TO`, a click line as its four
`STEP_TO` lines, and the statements about them. -/

namespace Sys2Proof.Machine

/-! ### One `STEP_TO` -/

theorem oneBitApart_iff (p : Combined) (n : Nat) : oneBitApart p n = true ↔
    n < 4 ∧ (p ^^^ BitVec.ofNat 2 n = 1 ∨ p ^^^ BitVec.ofNat 2 n = 2) := by
  simp [oneBitApart]

/-- The event of a legal `STEP_TO` is the edge event of the pin whose bit differs. -/
theorem stepToEvent_eq_edgeInstr {r : Regs} (hlevels : r.levelsAgree) {n : Combined}
    (h : r.lastState ^^^ n = 1 ∨ r.lastState ^^^ n = 2) (ts : Nat) :
    ∃ pin level, stepToEvent r.lastState n ts = edgeInstr pin level ts ∧ newState pin level r = n := by
  have htarget : ∀ (a b : Bit) (n : Combined), combined a b ^^^ n = 1 ∨ combined a b ^^^ n = 2 →
      if (combined a b).extractLsb' 1 1 = n.extractLsb' 1 1 then combined a (n.extractLsb' 0 1) = n
      else combined (n.extractLsb' 1 1) b = n := by decide
  have hn := htarget r.levelA r.levelB n (hlevels ▸ h)
  rw [← hlevels] at hn
  unfold stepToEvent
  split at hn
  case isTrue hbit => exact ⟨.b, _, if_pos hbit, hn⟩
  case isFalse hbit => exact ⟨.a, _, if_neg hbit, hn⟩

/-- After the event of a legal `STEP_TO` the assembler tracks its target. -/
theorem trackEvent_stepToEvent {p n : Combined} (h : p ^^^ n = 1 ∨ p ^^^ n = 2) (ts : Nat) :
    trackEvent p (stepToEvent p n ts) = n := by
  have htarget : ∀ p n : Combined, p ^^^ n = 1 ∨ p ^^^ n = 2 →
      if p.extractLsb' 1 1 = n.extractLsb' 1 1 then combined (p.extractLsb' 1 1) (n.extractLsb' 0 1) = n
      else combined (n.extractLsb' 1 1) (p.extractLsb' 0 1) = n := by decide
  have hn := htarget p n h
  unfold stepToEvent
  split at hn
  case isTrue hbit => rw [if_pos hbit]; exact hn
  case isFalse hbit => rw [if_neg hbit]; exact hn

theorem edgeInstr_wf (tsWidth : Nat) (pin : Pin) (level : Bit) (ts : Nat) :
    (edgeInstr pin level ts).wf tsWidth = tsInRange tsWidth ts := by cases pin <;> rfl

/-- Settles O54: the pin whose bit differs is moved to the target's bit, which is a valid transition. -/
theorem stepToReachesItsTarget : Obligations.StepToReachesItsTarget := by
  intro n ts s hlevels hwf
  simp only [AsmLine.wf, stepsLegal, Bool.and_true, Bool.and_eq_true, oneBitApart_iff] at hwf
  obtain ⟨⟨hn, hbit⟩, hts⟩ := hwf
  obtain ⟨pin, level, hevent, hnew⟩ := stepToEvent_eq_edgeInstr hlevels hbit ts
  have hspec := execState_edge_spec pin level ts s
  refine ⟨edgeInstr pin level ts, _, ?_, ?_, exec_eq _ s, ?_, hspec.levelsAgree, ?_⟩
  · rw [← hevent]; rfl
  · rw [edgeInstr_wf, hts]
  · rw [hspec.lastState, hnew, BitVec.toNat_ofNat, Nat.mod_eq_of_lt hn]
  · exact hspec.tr_ne_of_click (by rw [hnew, tt_ne_zero_iff]; exact hbit)

/-! ### Sequences of `STEP_TO` lines -/

/-- The `STEP_TO` line of a step. -/
def StepTo.line (x : StepTo) : AsmLine := .stepTo x.target x.ts

theorem expandLines_cons (tsWidth : Nat) (p : Combined) (l : AsmLine) (rest : List AsmLine) :
    expandLines tsWidth p (l :: rest) = if l.wf tsWidth p then
      (expandLines tsWidth ((lineEvents p l).foldl trackEvent p) rest).map (lineEvents p l ++ ·) else none := rfl

/-- Lines of `STEP_TO` expand, before any rest of a source, to the events of their sequence, if each of them is legal
where it stands. -/
theorem expandLines_steps (tsWidth : Nat) (p : Combined) (xs : List StepTo) (rest : List AsmLine) :
    expandLines tsWidth p (xs.map StepTo.line ++ rest) = if stepsLegal tsWidth p xs then
      (expandLines tsWidth ((stepEvents p xs).foldl trackEvent p) rest).map (stepEvents p xs ++ ·) else none := by
  induction xs generalizing p with
  | nil => simp [stepsLegal, stepEvents]
  | cons x xs ih =>
    have hline : x.line.wf tsWidth p = (oneBitApart p x.target && tsInRange tsWidth x.ts) := by
      simp [StepTo.line, AsmLine.wf, stepsLegal]
    have hevents : lineEvents p x.line = [stepToEvent p (BitVec.ofNat 2 x.target) x.ts] := rfl
    rw [List.map_cons, List.cons_append, expandLines_cons, hline, hevents, stepsLegal, stepEvents]
    by_cases hx : (oneBitApart p x.target && tsInRange tsWidth x.ts) = true
    · have hbit := ((oneBitApart_iff p x.target).mp (Bool.and_eq_true_iff.mp hx).1).2
      rw [if_pos hx, List.foldl_cons, List.foldl_nil, List.foldl_cons, trackEvent_stepToEvent hbit, ih, hx,
        Bool.true_and]
      split
      · rw [Option.map_map]; rfl
      · rfl
    · rw [if_neg hx, Bool.eq_false_iff.mpr hx]; rfl

/-- Settles O55: a click line and its `STEP_TO` lines are legal together, and then have the same events and tracked
state. -/
theorem pseudoLinesExpandToTheirLines : Obligations.PseudoLinesExpandToTheirLines := by
  intro tsWidth p rest
  exact ⟨rfl, fun _ => rfl, fun t0 dt => (expandLines_steps tsWidth p (detentCwSteps t0 dt) rest).symm,
    fun t0 dt => (expandLines_steps tsWidth p (detentCcwSteps t0 dt) rest).symm⟩

/-! ### Click lines -/

/-- Of four steps that are one bit apart in themselves only the first depends on the tracked state, and the last
timestamp is the largest. -/
theorem stepsLegal_click_iff {tsWidth n₁ n₂ n₃ t0 dt : Nat} (h₂ : oneBitApart (BitVec.ofNat 2 n₁) n₂ = true)
    (h₃ : oneBitApart (BitVec.ofNat 2 n₂) n₃ = true) (h₀ : oneBitApart (BitVec.ofNat 2 n₃) 0 = true) (p : Combined) :
    stepsLegal tsWidth p [⟨n₁, t0⟩, ⟨n₂, t0 + dt⟩, ⟨n₃, t0 + 2 * dt⟩, ⟨0, t0 + 3 * dt⟩] = true ↔
      oneBitApart p n₁ = true ∧ t0 + 3 * dt < 2 ^ tsWidth := by
  simp only [stepsLegal, h₂, h₃, h₀, Bool.and_eq_true, tsInRange, decide_eq_true_eq, true_and, and_true, and_assoc]
  refine and_congr_right fun _ => ?_
  omega

/-- States 1 and 2 are one bit from 0 and from 3. -/
theorem oneBitApart_first_step : (∀ p : Combined, oneBitApart p 1 = true ↔ p = 0 ∨ p = 3) ∧
    (∀ p : Combined, oneBitApart p 2 = true ↔ p = 0 ∨ p = 3) := by
  decide

/-- The edge event of each of the eight valid transitions (40_quadrature_decoder.md R101). -/
theorem stepToEvent_transitions (ts : Nat) :
    (stepToEvent 0 1 ts = .edgeB 1 ts ∧ stepToEvent 1 3 ts = .edgeA 1 ts ∧ stepToEvent 3 2 ts = .edgeB 0 ts ∧
      stepToEvent 2 0 ts = .edgeA 0 ts) ∧
    (stepToEvent 0 2 ts = .edgeA 1 ts ∧ stepToEvent 2 3 ts = .edgeB 1 ts ∧ stepToEvent 3 1 ts = .edgeA 0 ts ∧
      stepToEvent 1 0 ts = .edgeB 0 ts) :=
  ⟨⟨rfl, rfl, rfl, rfl⟩, ⟨rfl, rfl, rfl, rfl⟩⟩

/-- A click line is its first step, from the tracked state, and then three quarter-steps on. -/
theorem lineEvents_detentCw (p : Combined) (t0 dt : Nat) : lineEvents p (.detentCw t0 dt) =
    [stepToEvent p 1 t0, .edgeA 1 (t0 + dt), .edgeB 0 (t0 + 2 * dt), .edgeA 0 (t0 + 3 * dt)] := by
  show [stepToEvent p 1 t0, stepToEvent 1 3 (t0 + dt), stepToEvent 3 2 (t0 + 2 * dt), stepToEvent 2 0 (t0 + 3 * dt)] = _
  simp only [stepToEvent_transitions]

theorem lineEvents_detentCcw (p : Combined) (t0 dt : Nat) : lineEvents p (.detentCcw t0 dt) =
    [stepToEvent p 2 t0, .edgeB 1 (t0 + dt), .edgeA 0 (t0 + 2 * dt), .edgeB 0 (t0 + 3 * dt)] := by
  show [stepToEvent p 2 t0, stepToEvent 2 3 (t0 + dt), stepToEvent 3 1 (t0 + 2 * dt), stepToEvent 1 0 (t0 + 3 * dt)] = _
  simp only [stepToEvent_transitions]

/-- Settles O56: a click line is legal when its first step is and its last timestamp fits. -/
theorem clickLinesAreLegalFromStates0And3 : Obligations.ClickLinesAreLegalFromStates0And3 := by
  intro tsWidth t0 dt
  obtain ⟨hfirstCw, hfirstCcw⟩ := oneBitApart_first_step
  refine ⟨fun p => ?_, fun p => ?_, lineEvents_detentCw 3 t0 dt, lineEvents_detentCcw 3 t0 dt⟩
  · rw [← hfirstCw]
    exact stepsLegal_click_iff (by decide) (by decide) (by decide) p
  · rw [← hfirstCcw]
    exact stepsLegal_click_iff (by decide) (by decide) (by decide) p

/-- Settles O57: from tracked state 0 the lines are the clockwise and the counter-clockwise sequence of
40_quadrature_decoder.md R112 P-6. -/
theorem detentLinesAreOneClick : Obligations.DetentLinesAreOneClick := by
  intro t0 dt s hhome
  obtain ⟨hcw, hccw, -⟩ := theDocumentsSequences s t0 (t0 + dt) (t0 + 2 * dt) (t0 + 3 * dt) 0 0 hhome
  rw [hhome.lastState, lineEvents_detentCw, lineEvents_detentCcw]
  exact ⟨fun _ => ⟨rfl, hcw⟩, fun _ => ⟨rfl, hccw⟩⟩

end Sys2Proof.Machine
end
